-- ==== Sys2Proof/Word.lean ====
section
/-! DEFINITION. The words and colours of PPX-FX: the 8-bit channel, the 32-bit command or pixel word, and the colour triple (00_scope.md R10). -/

namespace Sys2Proof

/-- A colour channel, an unsigned 8-bit value (00_scope.md R8). -/
abbrev Byte := BitVec 8

/-- A command word or a pixel word (30_encoding.md R101, R110). -/
abbrev Word := BitVec 32

/-- A colour: red, green, blue (00_scope.md R10). Its 24 bits are never a byte sequence inside the block (20_memory.md R75). -/
structure Color where
  r : Byte
  g : Byte
  b : Byte
deriving DecidableEq, Repr

/-- `BLACK = (0,0,0)` (00_scope.md R10). -/
def Color.black : Color := ⟨0, 0, 0⟩

end Sys2Proof
end

