-- ==== Sys2Proof/Syntax.lean ====
section
/-! DEFINITION. The instructions of PPX-FX, one constructor per row of spec/opcode_table.json, and the command text of 30_encoding.md R111 and R112. -/

namespace Sys2Proof

/-- The two closed sets of 00_scope.md R2: the six commands of `CMD32` (30_encoding.md R102) and the twelve kernels of
`MODE4` (30_encoding.md R104). No row has an operand field (R101, R108): every operand is state. -/
inductive Instr where
  | nop
  | frame
  | toggleSelect
  | button2
  | nextMode
  | cursor
  | modeOff
  | modeSolidColor
  | modeSolidPattern
  | modeRainbow
  | modeSingleColorChase
  | modeRandomAll
  | modeRandomOne
  | modeRaindrops
  | modeTwinkle
  | modeFireflies
  | modeDropAndStack
  | modeChase
deriving DecidableEq, Repr

/-- The bits an instruction is decoded from: a word of the command port (30_encoding.md R101) or a mode tag held in
`S[s].mode` (R104). -/
inductive Encoded where
  | command (w : Word)
  | tag (t : BitVec 4)
deriving DecidableEq, Repr

/-- What decoding answers: an instruction, or the reason there is none, by name (30_encoding.md R103, R106). -/
inductive Decoded where
  | instr (i : Instr)
  | illegalCommand
  | reservedTag
deriving DecidableEq, Repr

/-- One line of a command program (30_encoding.md R111), pseudo-instructions included (R112). -/
inductive AsmLine where
  | blank
  | nop
  | frame
  | toggleSelect
  | button2
  | nextMode
  | cursor
  | word (w : Word)
  | button1
  | button3
  | button4
  | frames (n : Nat)
  | setModeSteps (n : Nat)
deriving DecidableEq, Repr

end Sys2Proof
end

