-- ==== Sys2Proof/WellFormed.lean ====
section
/-! DEFINITION. Well-formedness: of an instruction (no row has an operand, so every term is well formed), of a command word, of a mode tag, and of a line of command text. -/

namespace Sys2Proof

/-- Every instruction is well formed: no row of the opcode table has a field (30_encoding.md R101, R108). -/
def Instr.wf : Instr → Bool
  | .nop => true
  | .frame => true
  | .toggleSelect => true
  | .button2 => true
  | .nextMode => true
  | .cursor => true
  | .modeOff => true
  | .modeSolidColor => true
  | .modeSolidPattern => true
  | .modeRainbow => true
  | .modeSingleColorChase => true
  | .modeRandomAll => true
  | .modeRandomOne => true
  | .modeRaindrops => true
  | .modeTwinkle => true
  | .modeFireflies => true
  | .modeDropAndStack => true
  | .modeChase => true

/-- Bits 31:28 of a command word, `OP` (30_encoding.md R101). -/
def Word.op (w : Word) : BitVec 4 := w.extractLsb' 28 4

/-- Bits 27:0 of a command word, `RSVD` (30_encoding.md R101). -/
def Word.rsvd (w : Word) : BitVec 28 := w.extractLsb' 0 28

/-- A legal encoding: a command word with `RSVD = 0` and `OP < 6`, or a tag below 12 (30_encoding.md R103, R106). -/
def Encoded.wf : Encoded → Bool
  | .command w => w.rsvd == 0 && decide (w.op < 6)
  | .tag t => decide (t < 12)

/-- A legal line of command text: `FRAMES n` has `n >= 1`, `SETMODE_STEPS n` has `n <= 11` (30_encoding.md R112). -/
def AsmLine.wf : AsmLine → Bool
  | .blank => true
  | .nop => true
  | .frame => true
  | .toggleSelect => true
  | .button2 => true
  | .nextMode => true
  | .cursor => true
  | .word _ => true
  | .button1 => true
  | .button3 => true
  | .button4 => true
  | .frames n => decide (1 ≤ n)
  | .setModeSteps n => decide (n ≤ 11)

end Sys2Proof
end

