-- ==== Sys2Proof/Decode.lean ====
section
/-! DEFINITION. Decoding, total on every 32-bit word and every 4-bit tag (30_encoding.md R102 to R106), the encoder written from the same tables, the successor of a mode tag (R107), and the assembler of command text (R111, R112). -/

namespace Sys2Proof

/-- The opcode map of 30_encoding.md R102, read on `OP`. -/
def decodeOp (op : BitVec 4) : Decoded :=
  match op.toNat with
  | 0 => .instr .nop
  | 1 => .instr .frame
  | 2 => .instr .toggleSelect
  | 3 => .instr .button2
  | 4 => .instr .nextMode
  | 5 => .instr .cursor
  | _ => .illegalCommand

/-- `decode(w)` of 30_encoding.md R103: a non-zero `RSVD` is illegal, then an `OP` of 6 or more is. -/
def decodeCommand (w : Word) : Decoded :=
  if w.rsvd ≠ 0 then .illegalCommand else decodeOp w.op

/-- The mode tags of 30_encoding.md R104; 12 to 15 are reserved (R106). -/
def decodeTag (t : BitVec 4) : Decoded :=
  match t.toNat with
  | 0 => .instr .modeOff
  | 1 => .instr .modeSolidColor
  | 2 => .instr .modeSolidPattern
  | 3 => .instr .modeRainbow
  | 4 => .instr .modeSingleColorChase
  | 5 => .instr .modeRandomAll
  | 6 => .instr .modeRandomOne
  | 7 => .instr .modeRaindrops
  | 8 => .instr .modeTwinkle
  | 9 => .instr .modeFireflies
  | 10 => .instr .modeDropAndStack
  | 11 => .instr .modeChase
  | _ => .reservedTag

/-- Decoding of either format. -/
def decode : Encoded → Decoded
  | .command w => decodeCommand w
  | .tag t => decodeTag t

/-- The encoding of an instruction (30_encoding.md R102, R104). -/
def encode : Instr → Encoded
  | .nop => .command 0x00000000
  | .frame => .command 0x10000000
  | .toggleSelect => .command 0x20000000
  | .button2 => .command 0x30000000
  | .nextMode => .command 0x40000000
  | .cursor => .command 0x50000000
  | .modeOff => .tag 0x0
  | .modeSolidColor => .tag 0x1
  | .modeSolidPattern => .tag 0x2
  | .modeRainbow => .tag 0x3
  | .modeSingleColorChase => .tag 0x4
  | .modeRandomAll => .tag 0x5
  | .modeRandomOne => .tag 0x6
  | .modeRaindrops => .tag 0x7
  | .modeTwinkle => .tag 0x8
  | .modeFireflies => .tag 0x9
  | .modeDropAndStack => .tag 0xA
  | .modeChase => .tag 0xB

/-- The bits of an opcode-table row as this block stores them. A row of 32 bits is a command word; a shorter row is a mode
tag, because a partial word is no command (20_memory.md R74, log 12); bits above a tag's four are no tag. -/
def tableEncoded (nbits w : Nat) : Option Encoded :=
  if nbits = 32 then
    if w < 2 ^ 32 then some (.command (BitVec.ofNat 32 w)) else none
  else if nbits < 32 then
    if w < 16 then some (.tag (BitVec.ofNat 4 w)) else none
  else none

/-- The instruction this decoder reads from the bits of a row of spec/opcode_table.json. -/
def decodeTableWord (nbits w : Nat) : Option Instr :=
  match tableEncoded nbits w with
  | none => none
  | some e =>
    match decode e with
    | .instr i => some i
    | .illegalCommand => none
    | .reservedTag => none

/-- `nextMode(t) = (t + 1) mod 12` (30_encoding.md R107). DESIGN CHOICE (log 15): the rule gives it for `t` in 0..11 only; a reserved
tag 12 to 15, which no section ever holds, goes through the same formula (12 to 1, 15 to 4). -/
def nextMode (t : BitVec 4) : BitVec 4 := BitVec.ofNat 4 ((t.toNat + 1) % 12)

/-! ### Command text (30_encoding.md R111, R112) -/

/-- The word of a command (30_encoding.md R102); a mode tag is no command word. -/
def commandWord (i : Instr) : List Word :=
  match encode i with
  | .command w => [w]
  | .tag _ => []

/-- The words a line emits, after the expansions of 30_encoding.md R112. -/
def AsmLine.words : AsmLine → List Word
  | .blank => []
  | .nop => commandWord .nop
  | .frame => commandWord .frame
  | .toggleSelect => commandWord .toggleSelect
  | .button2 => commandWord .button2
  | .nextMode => commandWord .nextMode
  | .cursor => commandWord .cursor
  | .word w => [w]
  | .button1 => commandWord .toggleSelect
  | .button3 => commandWord .nextMode
  | .button4 => commandWord .cursor
  | .frames n => (List.replicate n (commandWord .frame)).flatten
  | .setModeSteps n => (List.replicate n (commandWord .nextMode)).flatten

/-- A letter in upper case: mnemonics are case-insensitive (30_encoding.md R111). -/
def upperChar (c : Char) : Char :=
  if 'a'.toNat ≤ c.toNat ∧ c.toNat ≤ 'z'.toNat then Char.ofNat (c.toNat - 32) else c

/-- Space, tab and carriage return separate the parts of a line (DESIGN CHOICE, log 18). -/
def isBlankChar (c : Char) : Bool := c == ' ' || c == '\t' || c == '\r'

/-- A line without its `; comment` (30_encoding.md R111). -/
def stripComment : List Char → List Char
  | [] => []
  | c :: cs => if c == ';' then [] else c :: stripComment cs

/-- The blank-separated parts of a line, in order. -/
def tokens : List Char → List (List Char)
  | [] => []
  | c :: cs =>
    if isBlankChar c then tokens cs
    else
      match cs with
      | [] => [[c]]
      | d :: _ =>
        if isBlankChar d then [c] :: tokens cs
        else
          match tokens cs with
          | [] => [[c]]
          | t :: ts => (c :: t) :: ts

/-- The value of a decimal digit. -/
def decDigit (c : Char) : Option Nat :=
  if '0'.toNat ≤ c.toNat ∧ c.toNat ≤ '9'.toNat then some (c.toNat - '0'.toNat) else none

/-- The value of a hexadecimal digit; the letter is in upper case. -/
def hexDigit (c : Char) : Option Nat :=
  if 'A'.toNat ≤ c.toNat ∧ c.toNat ≤ 'F'.toNat then some (c.toNat - 'A'.toNat + 10) else decDigit c

/-- A number written in digits of one base, most significant first. -/
def readDigits (digit : Char → Option Nat) (base : Nat) (acc : Nat) : List Char → Option Nat
  | [] => some acc
  | c :: cs =>
    match digit c with
    | none => none
    | some d => readDigits digit base (acc * base + d) cs

/-- A non-empty decimal number. -/
def readDecimal (cs : List Char) : Option Nat :=
  if cs.isEmpty then none else readDigits decDigit 10 0 cs

/-- "up to eight hexadecimal digits with an optional `0x` prefix" (30_encoding.md R111). -/
def readHexWord (cs : List Char) : Option Word :=
  let ds := match cs with
    | '0' :: 'X' :: rest => rest
    | other => other
  if ds.isEmpty ∨ 8 < ds.length then none
  else (readDigits hexDigit 16 0 ds).map (BitVec.ofNat 32)

/-- One line of command text, or none where it is no line of 30_encoding.md R111 or R112. -/
def parseLine (cs : List Char) : Option AsmLine :=
  match (tokens (stripComment cs)).map (·.map upperChar) with
  | [] => some .blank
  | [m] =>
    if m = "NOP".toList then some .nop
    else if m = "FRAME".toList then some .frame
    else if m = "TOGGLE_SELECT".toList then some .toggleSelect
    else if m = "BUTTON2".toList then some .button2
    else if m = "NEXT_MODE".toList then some .nextMode
    else if m = "CURSOR".toList then some .cursor
    else if m = "BUTTON1".toList then some .button1
    else if m = "BUTTON3".toList then some .button3
    else if m = "BUTTON4".toList then some .button4
    else none
  | [m, a] =>
    if m = ".WORD".toList then (readHexWord a).map .word
    else if m = "FRAMES".toList then
      (readDecimal a).bind fun n => if (AsmLine.frames n).wf then some (.frames n) else none
    else if m = "SETMODE_STEPS".toList then
      (readDecimal a).bind fun n => if (AsmLine.setModeSteps n).wf then some (.setModeSteps n) else none
    else none
  | _ :: _ :: _ :: _ => none

/-- The lines of a text. -/
def splitLines : List Char → List (List Char)
  | [] => [[]]
  | c :: cs =>
    if c == '\n' then [] :: splitLines cs
    else
      match splitLines cs with
      | [] => [[c]]
      | l :: ls => (c :: l) :: ls

/-- The words of a list of parsed lines; none if one of them did not parse. -/
def lineWords : List (Option AsmLine) → Option (List Word)
  | [] => some []
  | none :: _ => none
  | some l :: ls => (lineWords ls).map (l.words ++ ·)

/-- The words of a command program, one command per line (30_encoding.md R111). -/
def assemble (text : String) : Option (List Word) :=
  lineWords ((splitLines text.toList).map parseLine)

end Sys2Proof
end

