-- ==== Sys2Proof/Config.lean ====
section
/-! DEFINITION. The configuration of PPX-FX (00_scope.md R6), the values State.reset is configured with, and the free values: what the random source answers (00_scope.md R13), and what the state holds after CONFIG_REJECT (70_reset_and_hazards.md R351). -/

namespace Sys2Proof

/-- `PIXEL_LAYOUT` (00_scope.md R6, 30_encoding.md R110). -/
inductive PixelLayout where
  | grbMsb
  | rgbLsb
deriving DecidableEq, Repr

/-- The parameters of 00_scope.md R6, fixed at reset and never changed while the block runs.
`NS` is the constant 4, the length of the per-section vectors. -/
structure Config where
  /-- `W` -/
  width : Nat
  /-- `H` -/
  height : Nat
  /-- `BN` -/
  brightNum : Nat
  /-- `BD` -/
  brightDen : Nat
  /-- `FRAME_DELAY_MS` -/
  frameDelayMs : Nat
  /-- `PALETTE[0..7]` -/
  palette : Vector Color 8
  /-- `DS_PAL[0..1]` -/
  dsPalette : Vector Color 2
  /-- `RESTRICT_RANDOM` -/
  restrictRandom : Bool
  /-- `HIGHLIGHT` -/
  highlight : Color
  /-- `INIT_MODE[s]` -/
  initMode : Vector (BitVec 4) 4
  /-- `INIT_SOLID[s]` -/
  initSolid : Vector Color 4
  /-- `PL` -/
  patternLen : Nat
  /-- `INIT_PATTERN[s][0..PL-1]` -/
  initPattern : Vector (List Color) 4
  /-- `PIXEL_LAYOUT` -/
  layout : PixelLayout
  /-- `RF_PICK_EXACT` -/
  rfPickExact : Bool
deriving DecidableEq, Repr

/-- The default strong palette: red, green, blue, yellow, magenta, cyan, white, orange (40_color_units.md R131). -/
def Config.defaultPalette : Vector Color 8 :=
  #v[⟨255, 0, 0⟩, ⟨0, 255, 0⟩, ⟨0, 0, 255⟩, ⟨255, 255, 0⟩,
     ⟨255, 0, 255⟩, ⟨0, 255, 255⟩, ⟨255, 255, 255⟩, ⟨255, 165, 0⟩]

/-- The configuration of `State.reset`. The parameters to which 00_scope.md R6 gives a default have it.
DESIGN CHOICE (unsafe, log 1): `W`, `H`, `BN`, `BD`, `FRAME_DELAY_MS` and `DS_PAL` are OPEN in the spec; the values here are
those its test vectors use most (95_test_vectors.md, conventions, PR2 and PR3). No statement rests on them. -/
def Config.default : Config where
  width := 8
  height := 1
  brightNum := 1
  brightDen := 1
  frameDelayMs := 50
  palette := Config.defaultPalette
  dsPalette := #v[⟨255, 0, 0⟩, ⟨0, 0, 255⟩]
  restrictRandom := true
  highlight := ⟨0, 0, 255⟩
  initMode := #v[0, 0, 0, 0]
  initSolid := Vector.replicate 4 Config.defaultPalette[0]
  patternLen := 8
  initPattern := Vector.replicate 4 Config.defaultPalette.toList
  layout := .grbMsb
  rfPickExact := true

/-- FREE VALUE (log 6): what the random source answers to the draw with this number when no answer was placed on its port.
Nothing constrains it (00_scope.md R13: "a claim about the block holds for every sequence of draws"). -/
opaque Config.freeDraw : Nat → Nat

/-- FREE VALUE (log 5): what the state elements hold after CONFIG_REJECT, by the number of the rejection, of the register and of
the entry. Nothing constrains it (70_reset_and_hazards.md R351: "no other state element has a defined value"). -/
opaque Config.freeElement : Nat → Nat → Nat → Nat

end Sys2Proof
end

