-- ==== Sys2Proof/Machine/Regs.lean ====
section
/-! DEFINITION. The registers of a section, the selection registers, the ports, the geometry of the framebuffer, the legality of a configuration (10_state.md R51) and the reset values of a section (70_reset_and_hazards.md R352). -/

namespace Sys2Proof

/-! ### Geometry (00_scope.md R6, R16) -/

/-- `N = W * H`. -/
def Config.pixels (c : Config) : Nat := c.width * c.height

/-- `L = N div 4`, the length of every section. -/
def Config.sectionLen (c : Config) : Nat := c.pixels / 4

/-- `start_s = s * (N div 4)`. -/
def Config.sectionStart (c : Config) (k : Fin 4) : Nat := k.val * c.sectionLen

/-- `P = ceil(200 / FRAME_DELAY_MS)`, the RandomAll period in frames (10_state.md R39). -/
def Config.recolourPeriod (c : Config) : Nat := (200 + c.frameDelayMs - 1) / c.frameDelayMs

/-! ### Register widths (10_state.md R53) -/

/-- The number of bits needed to count `n` values, `0` to `n - 1`, at least 1. -/
def bitsFor (n : Nat) : Nat := Nat.log2 (n - 1) + 1

/-- `IW`, the bits needed for `L - 1`, at least 1: the width of `scc_idx`, `ch_idx`, `ro_last` and `SEL.pixel`; `ds_rows`, `ds_pos`
and `ds_run` have one bit more. -/
def Config.indexWidth (c : Config) : Nat := bitsFor c.sectionLen

/-- `ceil(log2(P))`, at least 1: the width of `ra_cnt`. -/
def Config.counterWidth (c : Config) : Nat := bitsFor c.recolourPeriod

/-! ### Palette ROMs (40_color_units.md R131) -/

/-- `PALETTE[j]`. -/
def Config.pal (c : Config) (j : BitVec 3) : Color := c.palette[j.toNat]

/-- `DS_PAL[j]`. -/
def Config.dsPal (c : Config) (j : BitVec 1) : Color := c.dsPalette[j.toNat]

/-- Configuration legality, condition by condition (10_state.md R51). "Every colour channel in 0..255" holds by the type of a
channel. That `INIT_PATTERN[s]` has `PL` entries is 00_scope.md R6 (DEDUCED, log 17). -/
def Config.legal (c : Config) : Bool :=
  decide (1 ≤ c.width) && decide (1 ≤ c.height) && decide (c.pixels % 4 = 0) &&
  decide (1 ≤ c.brightDen) && decide (c.brightNum ≤ c.brightDen) && decide (1 ≤ c.frameDelayMs) &&
  decide c.palette.toList.Nodup && decide (1 ≤ c.patternLen) &&
  c.initMode.toList.all (fun t => decide (t < 12)) &&
  c.initPattern.toList.all (fun p => decide (p.length = c.patternLen))

end Sys2Proof

namespace Sys2Proof.Machine

/-- The phase of a firefly (10_state.md R42). Code 3 is never held: the type has three values (93_implementation_defined.md I4). -/
inductive Phase where
  | off
  | fadeIn
  | fadeOut
deriving DecidableEq, Repr

/-- The 2-bit code of a phase: `OFF = 0`, `FADE_IN = 1`, `FADE_OUT = 2` (10_state.md R42). -/
def Phase.code : Phase → BitVec 2
  | .off => 0
  | .fadeIn => 1
  | .fadeOut => 2

/-- The register set `S[s]` of one section (10_state.md R33 to R44). A register whose width R53 derives from the configuration
(`IW`, `ceil(log2(P))`) is a natural or an integer here; `SectionRegs.Fits` says that it keeps within that width (DESIGN CHOICE, log 20). -/
structure SectionRegs where
  /-- `S[s].mode` (R33) -/
  mode : BitVec 4
  /-- `S[s].solid` (R34) -/
  solid : Color
  /-- `S[s].pattern[0..PL-1]` (R35) -/
  pattern : List Color
  /-- `S[s].rb_step` (R36) -/
  rbStep : BitVec 8
  /-- `S[s].scc_idx` (R37) -/
  sccIdx : Nat
  /-- `S[s].scc_pal` (R37) -/
  sccPal : BitVec 3
  /-- `S[s].ch_idx` (R38) -/
  chIdx : Nat
  /-- `S[s].ra_cnt` (R39) -/
  raCnt : Nat
  /-- `S[s].ro_last` (R40) -/
  roLast : Nat
  /-- `S[s].rd_col[0..L-1]` (R41) -/
  rdCol : List Color
  /-- `S[s].ff_col[0..L-1]` (R42) -/
  ffCol : List Color
  /-- `S[s].ff_phase[0..L-1]` (R42) -/
  ffPhase : List Phase
  /-- `S[s].ff_bri[0..L-1]` (R42) -/
  ffBri : List (BitVec 8)
  /-- `S[s].ff_active`, a subset of `0..L-1` in ascending order (R42) -/
  ffActive : List Nat
  /-- `S[s].rf_tgt[0..L-1]` (R43) -/
  rfTgt : List Color
  /-- `S[s].rf_fs[0..L-1]` (R43) -/
  rfFs : List (BitVec 5)
  /-- `S[s].ds_ci` (R44) -/
  dsCi : BitVec 1
  /-- `S[s].ds_rows` (R44), inert (R257) -/
  dsRows : Nat
  /-- `S[s].ds_pos` (R44) -/
  dsPos : Int
  /-- `S[s].ds_run` (R44) -/
  dsRun : Nat
deriving DecidableEq, Repr

/-- The reset values of a section's registers (70_reset_and_hazards.md R352). -/
def SectionRegs.initial (c : Config) (k : Fin 4) : SectionRegs where
  mode := c.initMode[k]
  solid := c.initSolid[k]
  pattern := c.initPattern[k]
  rbStep := 0
  sccIdx := 0
  sccPal := 0
  chIdx := 0
  raCnt := 0
  roLast := 0
  rdCol := List.replicate c.sectionLen Color.black
  ffCol := List.replicate c.sectionLen Color.black
  ffPhase := List.replicate c.sectionLen Phase.off
  ffBri := List.replicate c.sectionLen 0
  ffActive := []
  rfTgt := List.replicate c.sectionLen Color.black
  rfFs := List.replicate c.sectionLen 0
  dsCi := 0
  dsRows := 0
  dsPos := -1
  dsRun := c.sectionLen

/-- The selection registers `SEL` (10_state.md R45 to R47). -/
structure Select where
  /-- `SEL.selecting`: false is Normal, true is Selecting (R45) -/
  selecting : Bool
  /-- `SEL.section` (R46) -/
  sect : Fin 4
  /-- `SEL.pixel` (R47), inert -/
  pixel : Nat
deriving DecidableEq, Repr

/-- An output event (00_scope.md R14): `Pix(i, w)` or `Flush`. -/
inductive Event where
  | pix (i : Nat) (w : Word)
  | flush
deriving DecidableEq, Repr

/-- One cell of the framebuffer: an index and the whole colour there. The unit of access is one colour and no space is
byte-addressed (20_memory.md R71), so the cell is not a byte (log 9). -/
abbrev PixelCell := Nat × Color

/-- The framebuffer `FB` (10_state.md R31) in one canonical form (log 9): indices strictly rising, no entry `BLACK`; an index
not listed holds `BLACK`, its reset contents. -/
abbrev FrameBuffer := List PixelCell

/-- The random source as an input of the block (10_state.md R49): the values it has ready, oldest first, the number of draws
taken so far (which numbers the free values, log 6), and whether it answers (70_reset_and_hazards.md R366). -/
structure RandomPort where
  queued : List Nat
  taken : Nat
  answering : Bool
deriving DecidableEq, Repr

/-- The causes of `FAULT[2:0]` (60_exceptions.md R320); codes 4 to 7 are never raised. -/
inductive FaultCause where
  | none
  | illegalCommand
  | badModeTag
  | configReject
deriving DecidableEq, Repr

end Sys2Proof.Machine
end

