-- ==== Sys2Proof/Machine/State.lean ====
section
/-! DEFINITION. The state of PPX-FX (10_state.md R30), the reasons a step can stop, and the state after reset (70_reset_and_hazards.md R352). -/

namespace Sys2Proof.Machine

/-- The whole state as plain data. The fields `cfg`, `fb`, `secs`, `sel`, `fault`, `faultInfo` are the spec's; `trace` is its
observation; the rest are the model's own: the inputs (log 3, 4, 6, 7), the place inside a FRAME (log 8) and the number of rejections (log 5). -/
structure State where
  /-- The configuration, fixed at reset (00_scope.md R6; log 1). -/
  cfg : Config
  /-- `FB[0..N-1]` (10_state.md R31). -/
  fb : FrameBuffer
  /-- `S[0]` to `S[3]` (10_state.md R32 to R44). -/
  secs : Vector SectionRegs 4
  /-- `SEL` (10_state.md R45 to R47). -/
  sel : Select
  /-- `FAULT`: VALID in bit 3, CAUSE in bits 2:0 (10_state.md R48). -/
  fault : BitVec 4
  /-- `FAULT_INFO` (10_state.md R48). -/
  faultInfo : Word
  /-- The output trace since reset, in emission order (20_memory.md R84). -/
  trace : List Event
  /-- The reset input: a configuration while reset is asserted with it, none otherwise (70_reset_and_hazards.md R350; log 4). -/
  rst : Option Config
  /-- The command port: the words that have arrived and are not taken yet, oldest first (20_memory.md R70; log 3). -/
  cmds : List Word
  /-- The random source (10_state.md R49; log 6). -/
  rand : RandomPort
  /-- The LED driver accepts events (20_memory.md R85; log 7). -/
  driverReady : Bool
  /-- The block stands inside the section loop of a FRAME (46_frame_mux_writer.md R290; log 8). -/
  inFrame : Bool
  /-- The section whose kernel that loop runs next (46_frame_mux_writer.md R290; log 8). -/
  frameSec : Fin 4
  /-- How many configurations were rejected; it only numbers the free values that each CONFIG_REJECT leaves (log 5). -/
  rejections : Nat
deriving DecidableEq, Repr

/-- Why the machine would stop with a fault outcome. There is no constructor: nobody raises one. Every fault of the spec is a
latch in `FAULT` followed by a halt (60_exceptions.md R321, R322), which is a next state (log 11). Safe: nothing is cut off. -/
inductive Fault where
deriving DecidableEq, Repr

/-- Why the model would refuse an instruction. -/
inductive Refusal where
  /-- Raised by an arm of `exec` whose instruction has no meaning yet; no arm does. Safe: a refusal proves nothing. -/
  | notModelled (mnemonic : String)
deriving DecidableEq, Repr

/-- The state after a reset with a legal configuration: every element of 70_reset_and_hazards.md R352 at its value there. The
inputs are the environment's and are given. -/
def State.afterReset (c : Config) (cmds : List Word) (rand : RandomPort) (driverReady : Bool) : State where
  cfg := c
  fb := []
  secs := Vector.ofFn (SectionRegs.initial c)
  sel := ⟨false, 0, 0⟩
  fault := 0
  faultInfo := 0
  trace := []
  rst := none
  cmds := cmds
  rand := rand
  driverReady := driverReady
  inFrame := false
  frameSec := 0
  rejections := 0

/-- The machine right after reset. DESIGN CHOICE: its configuration (log 1), and the inputs: nothing on the command port, no
random value ready, a driver and a random source that answer (log 14). -/
def State.reset : State := State.afterReset Config.default [] ⟨[], 0, true⟩ true

end Sys2Proof.Machine
end

