-- ==== Sys2Proof/Machine/Flags.lean ====
section
/-! DEFINITION. The status bits of PPX-FX: there are no condition codes (10_state.md R52); the only status is `SEL.selecting` and the fault register with its fields (10_state.md R45, R48, 60_exceptions.md R320). -/

namespace Sys2Proof.Machine

/-- The code of a cause (60_exceptions.md R320). -/
def FaultCause.code : FaultCause → BitVec 3
  | .none => 0
  | .illegalCommand => 1
  | .badModeTag => 2
  | .configReject => 3

/-- The value of `FAULT` with VALID set and this cause (60_exceptions.md R321). -/
def FaultCause.latched (x : FaultCause) : BitVec 4 := 1#1 ++ x.code

/-- `FAULT[3]`, VALID (10_state.md R48). -/
def State.faultValid (s : State) : Bool := s.fault.getLsbD 3

/-- `FAULT[2:0]`, CAUSE (10_state.md R48). -/
def State.faultCode (s : State) : BitVec 3 := s.fault.extractLsb' 0 3

/-- The status output drives `FAULT` and `FAULT_INFO` at all times (60_exceptions.md R328). -/
def State.statusOutput (s : State) : BitVec 4 × Word := (s.fault, s.faultInfo)

/-- `{26'b0, s[1:0], tag[3:0]}`, the information of BAD_MODE_TAG (60_exceptions.md R320). -/
def tagInfo (k : Fin 4) (t : BitVec 4) : Word := 0#26 ++ BitVec.ofNat 2 k.val ++ t

end Sys2Proof.Machine
end

