-- ==== Sys2Proof/Machine/Ops.lean ====
section
/-! DEFINITION. The shared operations: the framebuffer's reads and writes, the random draws, emitting events, raising a fault, reset (the only return from a fault), and what the block takes next. -/

namespace Sys2Proof.Machine

/-! ### The framebuffer (00_scope.md R12; its representation is log 9) -/

/-- What an index that is not listed holds: the reset contents of every entry (10_state.md R31). -/
def Memory.unlisted : Color := Color.black

/-- `FBRead(i)` (00_scope.md R12). -/
def Memory.read : FrameBuffer → Nat → Color
  | [], _ => Memory.unlisted
  | (j, d) :: rest, i => if i = j then d else Memory.read rest i

/-- Replace the whole colour at one index, keeping the canonical form (20_memory.md R72). -/
def Memory.write : FrameBuffer → Nat → Color → FrameBuffer
  | [], i, c => if c = Memory.unlisted then [] else [(i, c)]
  | (j, d) :: rest, i, c =>
    if i < j then
      if c = Memory.unlisted then (j, d) :: rest else (i, c) :: (j, d) :: rest
    else if i = j then
      if c = Memory.unlisted then rest else (i, c) :: rest
    else (j, d) :: Memory.write rest i c

/-- The indices rise strictly from a lower bound. -/
def Memory.risingFrom : Nat → FrameBuffer → Bool
  | _, [] => true
  | lo, (j, _) :: rest => decide (lo ≤ j) && Memory.risingFrom (j + 1) rest

/-- The canonical form of a framebuffer of `n` entries: indices strictly rising and below `n`, no listed `BLACK` (log 9). -/
def Memory.wf (n : Nat) (fb : FrameBuffer) : Bool :=
  Memory.risingFrom 0 fb && fb.all (fun p => decide (p.1 < n) && decide (p.2 ≠ Memory.unlisted))

/-- `FBWrite(i, c)`: a write outside `0..n-1` is dropped (00_scope.md R12, 20_memory.md R73). -/
def fbWrite (n : Nat) (fb : FrameBuffer) (i : Nat) (c : Color) : FrameBuffer :=
  if i < n then Memory.write fb i c else fb

/-- `FBWrite(i, c)` at a signed index, dropped below 0 as well (20_memory.md R73). -/
def fbWriteInt (n : Nat) (fb : FrameBuffer) (i : Int) (c : Color) : FrameBuffer :=
  if 0 ≤ i then fbWrite n fb i.toNat c else fb

/-- `for k in 0..len-1: FBWrite(start + k, f k)`, ascending (00_scope.md R17). -/
def fbFill (n : Nat) (fb : FrameBuffer) (start : Nat) (f : Nat → Color) : Nat → FrameBuffer
  | 0 => fb
  | len + 1 => fbWrite n (fbFill n fb start f len) (start + len) (f len)

/-- `FBClear()`: `FBWrite(i, BLACK)` for every index (00_scope.md R12). -/
def fbClear (n : Nat) (fb : FrameBuffer) : FrameBuffer := fbFill n fb 0 (fun _ => Color.black) n

/-! ### Random draws (00_scope.md R13, log 6) -/

/-- `draw({0..n-1})`: the next value the source has ready, or the free value of this draw's number, reduced to the domain. -/
def RandomPort.draw (n : Nat) (p : RandomPort) : Nat × RandomPort :=
  match p.queued with
  | v :: vs => (v % n, { p with queued := vs, taken := p.taken + 1 })
  | [] => (Config.freeDraw p.taken % n, { p with taken := p.taken + 1 })

/-! ### Output (00_scope.md R14) -/

/-- Append events to the output trace, in emission order (20_memory.md R84). -/
def State.emit (s : State) (es : List Event) : State := { s with trace := s.trace ++ es }

/-! ### Faults: entry, and reset as the only return (60_exceptions.md R321, R329) -/

/-- `raise Fault(cause)`: VALID and CAUSE in `FAULT`, the information in `FAULT_INFO`, nothing else (60_exceptions.md R321).
There is no vector, no saved state and no mode change (R328). -/
def State.raiseFault (x : FaultCause) (info : Word) (s : State) : State :=
  { s with fault := x.latched, faultInfo := info }

/-- A free natural number: register `reg`, entry `i`, after the rejection number `n` (log 5). -/
def freeNat (n reg i : Nat) : Nat := Config.freeElement n reg i

/-- A free colour (log 5). -/
def freeColor (n reg i : Nat) : Color :=
  ⟨BitVec.ofNat 8 (freeNat n reg i), BitVec.ofNat 8 (freeNat n reg i / 256), BitVec.ofNat 8 (freeNat n reg i / 65536)⟩

/-- A free phase (log 5). -/
def freePhase (n reg i : Nat) : Phase :=
  if freeNat n reg i % 3 = 0 then .off else if freeNat n reg i % 3 = 1 then .fadeIn else .fadeOut

/-- The registers of section `k` with no defined value: each entry any value of its register's width (10_state.md R53, log 5). -/
def freeSection (c : Config) (n : Nat) (k : Fin 4) : SectionRegs :=
  let reg := 32 * (k.val + 1)
  let entries := List.range c.sectionLen
  let index := 2 ^ c.indexWidth
  let pos := freeNat n (reg + 18) 0 % (2 * index)
  { mode := BitVec.ofNat 4 (freeNat n reg 0)
    solid := freeColor n (reg + 1) 0
    pattern := (List.range c.patternLen).map (freeColor n (reg + 2))
    rbStep := BitVec.ofNat 8 (freeNat n (reg + 3) 0)
    sccIdx := freeNat n (reg + 4) 0 % index
    sccPal := BitVec.ofNat 3 (freeNat n (reg + 5) 0)
    chIdx := freeNat n (reg + 6) 0 % index
    raCnt := freeNat n (reg + 7) 0 % 2 ^ c.counterWidth
    roLast := freeNat n (reg + 8) 0 % index
    rdCol := entries.map (freeColor n (reg + 9))
    ffCol := entries.map (freeColor n (reg + 10))
    ffPhase := entries.map (freePhase n (reg + 11))
    ffBri := entries.map fun i => BitVec.ofNat 8 (freeNat n (reg + 12) i)
    ffActive := entries.filter fun i => decide (freeNat n (reg + 13) i % 2 = 1)
    rfTgt := entries.map (freeColor n (reg + 14))
    rfFs := entries.map fun i => BitVec.ofNat 5 (freeNat n (reg + 15) i)
    dsCi := BitVec.ofNat 1 (freeNat n (reg + 16) 0)
    dsRows := freeNat n (reg + 17) 0 % (2 * index)
    dsPos := (pos : Int) - (index : Int)
    dsRun := freeNat n (reg + 19) 0 % (2 * index) }

/-- The framebuffer, the sections and the selection with no defined value (log 5). -/
def State.undefine (c : Config) (s : State) : State :=
  { s with
    fb := fbFill c.pixels [] 0 (freeColor s.rejections 0) c.pixels
    secs := Vector.ofFn (freeSection c s.rejections)
    sel := ⟨decide (freeNat s.rejections 1 0 % 2 = 1), Fin.ofNat 4 (freeNat s.rejections 2 0), freeNat s.rejections 3 0 % 2 ^ c.indexWidth⟩
    rejections := s.rejections + 1 }

/-- Reset released with the configuration `c` (70_reset_and_hazards.md R350): the configuration check of R351, then the values
of R352. After CONFIG_REJECT the trace is empty (R350) and the other elements have no defined value: free values (log 5). -/
def State.release (c : Config) (s : State) : State :=
  if c.legal then { State.afterReset c s.cmds s.rand s.driverReady with rejections := s.rejections }
  else
    State.raiseFault .configReject 0
      { s.undefine c with cfg := c, trace := [], rst := none, inFrame := false, frameSec := 0 }

/-! ### What the block takes next -/

/-- What the block does next: release a reset, stay as it is, or take an encoded instruction from a state. -/
inductive Taken where
  | release (c : Config)
  | quiet
  | take (e : Encoded) (s : State)
deriving DecidableEq, Repr

/-- A reset goes first (70_reset_and_hazards.md R350). With a fault latched the block takes nothing (60_exceptions.md R322).
Inside a FRAME it takes the mode tag of the section in turn (46_frame_mux_writer.md R292, log 8); otherwise the oldest word on the
command port, or it waits for one (70_reset_and_hazards.md R353). DESIGN CHOICE (log 8): a kernel that is stepped inside a FRAME runs
whatever `SEL.selecting` holds; the spec has no such stepped form, and its FRAME runs no kernel in Selecting state (R295). -/
def State.fetch (s : State) : Taken :=
  match s.rst with
  | some c => .release c
  | none =>
    if s.faultValid then .quiet
    else if s.inFrame then .take (.tag s.secs[s.frameSec].mode) s
    else
      match s.cmds with
      | [] => .quiet
      | w :: ws => .take (.command w) { s with cmds := ws }

/-- A word or tag that decodes to no instruction: ILLEGAL_COMMAND with the word (60_exceptions.md R323), BAD_MODE_TAG with the
section and the tag (30_encoding.md R106, 60_exceptions.md R324). -/
def State.reject (e : Encoded) (s : State) : State :=
  match e with
  | .command w => s.raiseFault .illegalCommand w
  | .tag t => s.raiseFault .badModeTag (tagInfo s.frameSec t)

/-- Waiting: if the instruction emitted and the driver does not accept (20_memory.md R85), or drew and the random source does
not answer (70_reset_and_hazards.md R366), the block takes no step and changes no state; otherwise its result `t` stands (log 7). -/
def State.orWait (s t : State) : State :=
  if (!s.driverReady && t.trace.length != s.trace.length) || (!s.rand.answering && t.rand.taken != s.rand.taken) then s
  else t

/-- The bits of an opcode-table row put where the block takes its next instruction (log 12): a command word at the head of
the command port, a mode tag in the section whose kernel the FRAME in progress runs next. -/
def State.placeEncoded (s : State) : Encoded → State
  | .command w => { s with rst := none, fault := 0, faultInfo := 0, inFrame := false, cmds := w :: s.cmds }
  | .tag t =>
    { s with rst := none, fault := 0, faultInfo := 0, inFrame := true,
             secs := s.secs.set s.frameSec { s.secs[s.frameSec] with mode := t } }

end Sys2Proof.Machine
end

