-- ==== Sys2Proof/Machine/Color.lean ====
section
/-! DEFINITION. The colour units (40_color_units.md), the decay of Raindrops (43_random_kernels.md R206), the interpolation of RandomFade (R223), and the packing of a pixel word (46_frame_mux_writer.md R304). -/

namespace Sys2Proof.Machine

/-- `(ch * num) div den` (40_color_units.md R132). -/
def scaleChannel (ch : Byte) (num den : Nat) : Byte := BitVec.ofNat 8 (ch.toNat * num / den)

/-- `applyBrightness(c, num, den)` (40_color_units.md R132). -/
def applyBrightness (c : Color) (num den : Nat) : Color :=
  ⟨scaleChannel c.r num den, scaleChannel c.g num den, scaleChannel c.b num den⟩

/-- `wheel(pos)` (40_color_units.md R134). -/
def wheel (pos : Nat) : Color :=
  if pos < 85 then ⟨BitVec.ofNat 8 (3 * pos), BitVec.ofNat 8 (255 - 3 * pos), 0⟩
  else if pos < 170 then
    let p := pos - 85
    ⟨BitVec.ofNat 8 (255 - 3 * p), 0, BitVec.ofNat 8 (3 * p)⟩
  else
    let p := pos - 170
    ⟨0, BitVec.ofNat 8 (3 * p), BitVec.ofNat 8 (255 - 3 * p)⟩

/-- `paletteColor()` (40_color_units.md R137): one draw from `{0..7}`, whatever `RESTRICT_RANDOM` says. -/
def paletteColor (c : Config) (p : RandomPort) : Color × RandomPort :=
  let d := p.draw 8
  (c.pal (BitVec.ofNat 3 d.1), d.2)

/-- `randomColor()` (40_color_units.md R136): unrestricted draws come in the order red, green, blue. -/
def randomColor (c : Config) (p : RandomPort) : Color × RandomPort :=
  if c.restrictRandom then
    let d := p.draw 8
    (c.pal (BitVec.ofNat 3 d.1), d.2)
  else
    let r := p.draw 256
    let g := r.2.draw 256
    let b := g.2.draw 256
    (⟨BitVec.ofNat 8 r.1, BitVec.ofNat 8 g.1, BitVec.ofNat 8 b.1⟩, b.2)

/-- One colour after another, in ascending order of the pixel (43_random_kernels.md R230). -/
def drawColors (one : RandomPort → Color × RandomPort) : Nat → RandomPort → List Color × RandomPort
  | 0, p => ([], p)
  | n + 1, p =>
    let a := one p
    let rest := drawColors one n a.2
    (a.1 :: rest.1, rest.2)

/-- The palette indices in ascending order. -/
def paletteIndices : List (BitVec 3) := [0, 1, 2, 3, 4, 5, 6, 7]

/-- `cycleColor(c)` (40_color_units.md R138). -/
def cycleColor (cfg : Config) (c : Color) : Color :=
  match paletteIndices.find? (fun j => decide (cfg.pal j = c)) with
  | some j => cfg.pal (j + 1)
  | none => cfg.pal 0

/-- `max(ch - 10, 0)` (43_random_kernels.md R206). -/
def decayChannel (ch : Byte) : Byte := BitVec.ofNat 8 (ch.toNat - 10)

/-- `decay(c)` (43_random_kernels.md R206). -/
def decay (c : Color) : Color := ⟨decayChannel c.r, decayChannel c.g, decayChannel c.b⟩

/-- `cur.x + ((t.x - cur.x) * num) div den`, the division rounding toward negative infinity for `den > 0` (43_random_kernels.md R223). -/
def lerpChannel (cur t : Byte) (num den : Int) : Byte :=
  BitVec.ofInt 8 ((cur.toNat : Int) + (((t.toNat : Int) - (cur.toNat : Int)) * num) / den)

/-- `lerp(cur, t, num, den)` (43_random_kernels.md R223). -/
def lerp (cur t : Color) (num den : Int) : Color :=
  ⟨lerpChannel cur.r t.r num den, lerpChannel cur.g t.g num den, lerpChannel cur.b t.b num den⟩

/-- A channel as a 32-bit word. -/
def channelWord (ch : Byte) : Word := ch.setWidth 32

/-- `pack(c)` (46_frame_mux_writer.md R304, 30_encoding.md R110). -/
def pack (layout : PixelLayout) (c : Color) : Word :=
  match layout with
  | .grbMsb => (channelWord c.g <<< 24) + (channelWord c.r <<< 16) + (channelWord c.b <<< 8)
  | .rgbLsb => (channelWord c.r <<< 16) + (channelWord c.g <<< 8) + channelWord c.b

end Sys2Proof.Machine
end

