-- ==== Sys2Proof/Machine/Operands.lean ====
section
/-! DEFINITION. The operand forms of PPX-FX. No encoding has an operand (30_encoding.md R101, R108): a command's operands are the selected section's registers, a kernel's are the registers of its section, the framebuffer and the random source. -/

namespace Sys2Proof.Machine

/-- The registers of section `k`. -/
def State.sec (s : State) (k : Fin 4) : SectionRegs := s.secs[k]

/-- Replace the registers of section `k`. -/
def State.setSec (s : State) (k : Fin 4) (v : SectionRegs) : State := { s with secs := s.secs.set k v }

/-- The registers of the selected section, `S[SEL.section]` (45_control_commands.md R273). -/
def State.selected (s : State) : SectionRegs := s.sec s.sel.sect

/-- What a kernel of one section can reach: its section's registers, the framebuffer and the random source (20_memory.md R70). -/
structure KernelView where
  sec : SectionRegs
  fb : FrameBuffer
  rand : RandomPort
deriving DecidableEq, Repr

/-- The view of section `k`. -/
def State.view (s : State) (k : Fin 4) : KernelView := ⟨s.sec k, s.fb, s.rand⟩

/-- Put a view of section `k` back. -/
def State.putView (s : State) (k : Fin 4) (v : KernelView) : State :=
  { s with secs := s.secs.set k v.sec, fb := v.fb, rand := v.rand }

/-- Run the frame algorithm of one mode for section `k` (46_frame_mux_writer.md R292). -/
def State.runKernel (kernel : Config → Fin 4 → KernelView → KernelView) (k : Fin 4) (s : State) : State :=
  s.putView k (kernel s.cfg k (s.view k))

/-- `for i in 0..L-1: FBWrite(start + i, f i)` for section `k` (00_scope.md R16). -/
def fillSection (c : Config) (k : Fin 4) (fb : FrameBuffer) (f : Nat → Color) : FrameBuffer :=
  fbFill c.pixels fb (c.sectionStart k) f c.sectionLen

/-- `FBRead(start + i)` for section `k`. -/
def readSection (c : Config) (k : Fin 4) (fb : FrameBuffer) (i : Nat) : Color :=
  Memory.read fb (c.sectionStart k + i)

end Sys2Proof.Machine
end

