-- ==== Sys2Proof/Machine/Control.lean ====
section
/-! DEFINITION. The control commands NOP, TOGGLE_SELECT, BUTTON2, NEXT_MODE and CURSOR (45_control_commands.md). -/

namespace Sys2Proof.Machine

/-- NOP (45_control_commands.md R270). -/
def execNop (s : State) : Host.Outcome State Fault Refusal := .next s

/-- TOGGLE_SELECT: the clear happens in both directions (45_control_commands.md R272). -/
def execToggleSelect (s : State) : Host.Outcome State Fault Refusal :=
  .next { s with sel := { s.sel with selecting := !s.sel.selecting }, fb := fbClear s.cfg.pixels s.fb }

/-- BUTTON2 in Normal state on the registers of the selected section: SolidColor cycles its colour, SolidPattern each colour of
its pattern, another mode nothing (45_control_commands.md R274). -/
def cycleBound (c : Config) (x : SectionRegs) : SectionRegs :=
  if x.mode = 1 then { x with solid := cycleColor c x.solid }
  else if x.mode = 2 then { x with pattern := x.pattern.map (cycleColor c) }
  else x

/-- BUTTON2 (45_control_commands.md R274). -/
def execButton2 (s : State) : Host.Outcome State Fault Refusal :=
  if s.sel.selecting then .next { s with sel := { s.sel with sect := s.sel.sect + 1 } }
  else .next (s.setSec s.sel.sect (cycleBound s.cfg s.selected))

/-- NEXT_MODE (45_control_commands.md R276): in Selecting state no change at all. -/
def execNextMode (s : State) : Host.Outcome State Fault Refusal :=
  if s.sel.selecting then .next s
  else
    .next { s.setSec s.sel.sect { s.selected with mode := nextMode s.selected.mode } with
            fb := fbClear s.cfg.pixels s.fb }

/-- CURSOR: no tag means Manual, so nothing changes in any state (45_control_commands.md R278, R279). -/
def execCursor (s : State) : Host.Outcome State Fault Refusal := .next s

end Sys2Proof.Machine
end

