-- ==== Sys2Proof/Machine/Chase.lean ====
section
/-! DEFINITION. The chase kernels: SingleColorChase and Chase (42_chase_kernels.md). -/

namespace Sys2Proof.Machine

/-- `kernel_SingleColorChase` (42_chase_kernels.md R180). -/
def kernelSingleColorChase (c : Config) (k : Fin 4) (v : KernelView) : KernelView :=
  let blank := fillSection c k v.fb (fun _ => Color.black)
  let idx := (v.sec.sccIdx + 1) % c.sectionLen
  { v with
    fb := fbWrite c.pixels blank (c.sectionStart k + v.sec.sccIdx) (c.pal v.sec.sccPal)
    sec := { v.sec with
      sccIdx := idx
      sccPal := if idx = 0 then v.sec.sccPal + 1 else v.sec.sccPal } }

/-- `for i in 0..n-1: FBWrite(start + (idx + i) mod L, PALETTE[i])`, ascending, so a later colour overwrites an earlier one
(42_chase_kernels.md R183). -/
def chasePaint (c : Config) (k : Fin 4) (idx : Nat) (fb : FrameBuffer) : Nat → FrameBuffer
  | 0 => fb
  | i + 1 =>
    fbWrite c.pixels (chasePaint c k idx fb i) (c.sectionStart k + (idx + i) % c.sectionLen) (c.pal (BitVec.ofNat 3 i))

/-- `kernel_Chase` (42_chase_kernels.md R183). -/
def kernelChase (c : Config) (k : Fin 4) (v : KernelView) : KernelView :=
  { v with
    fb := chasePaint c k v.sec.chIdx (fillSection c k v.fb (fun _ => Color.black)) 8
    sec := { v.sec with chIdx := (v.sec.chIdx + 1) % c.sectionLen } }

/-- MODE_SINGLECOLORCHASE (42_chase_kernels.md R180). -/
def execModeSingleColorChase (s : State) : Host.Outcome State Fault Refusal :=
  .next (s.runKernel kernelSingleColorChase s.frameSec)

/-- MODE_CHASE (42_chase_kernels.md R183). -/
def execModeChase (s : State) : Host.Outcome State Fault Refusal := .next (s.runKernel kernelChase s.frameSec)

end Sys2Proof.Machine
end

