-- ==== Sys2Proof/Machine/Fill.lean ====
section
/-! DEFINITION. The fill kernels: Off, SolidColor, SolidPattern, Rainbow (41_fill_kernels.md). -/

namespace Sys2Proof.Machine

/-- `kernel_Off`: the clear is global, not only the section (41_fill_kernels.md R160, R161). -/
def kernelOff (c : Config) (_k : Fin 4) (v : KernelView) : KernelView :=
  { v with fb := fbClear c.pixels v.fb }

/-- `kernel_SolidColor` (41_fill_kernels.md R162). -/
def kernelSolidColor (c : Config) (k : Fin 4) (v : KernelView) : KernelView :=
  { v with fb := fillSection c k v.fb (fun _ => v.sec.solid) }

/-- The colour SolidPattern paints at an offset (41_fill_kernels.md R164). -/
def patternColor (c : Config) (x : SectionRegs) (i : Nat) : Color :=
  x.pattern.getD (i % c.patternLen) Color.black

/-- `kernel_SolidPattern` (41_fill_kernels.md R164). -/
def kernelSolidPattern (c : Config) (k : Fin 4) (v : KernelView) : KernelView :=
  { v with fb := fillSection c k v.fb (patternColor c v.sec) }

/-- `rbPos(k, step)` for a section of length `len` (41_fill_kernels.md R165). -/
def rbPos (len i step : Nat) : Nat := (i * 256 / len + step) % 256

/-- `kernel_Rainbow`: painted with the step held at the start of the frame (41_fill_kernels.md R166). -/
def kernelRainbow (c : Config) (k : Fin 4) (v : KernelView) : KernelView :=
  { v with
    fb := fillSection c k v.fb (fun i => wheel (rbPos c.sectionLen i v.sec.rbStep.toNat))
    sec := { v.sec with rbStep := v.sec.rbStep + 1 } }

/-- MODE_OFF (41_fill_kernels.md R160). -/
def execModeOff (s : State) : Host.Outcome State Fault Refusal := .next (s.runKernel kernelOff s.frameSec)

/-- MODE_SOLIDCOLOR (41_fill_kernels.md R162). -/
def execModeSolidColor (s : State) : Host.Outcome State Fault Refusal :=
  .next (s.runKernel kernelSolidColor s.frameSec)

/-- MODE_SOLIDPATTERN (41_fill_kernels.md R164). -/
def execModeSolidPattern (s : State) : Host.Outcome State Fault Refusal :=
  .next (s.runKernel kernelSolidPattern s.frameSec)

/-- MODE_RAINBOW (41_fill_kernels.md R166). -/
def execModeRainbow (s : State) : Host.Outcome State Fault Refusal := .next (s.runKernel kernelRainbow s.frameSec)

end Sys2Proof.Machine
end

