-- ==== Sys2Proof/Machine/Random.lean ====
section
/-! DEFINITION. The random kernels: RandomAll, RandomOne, Raindrops, Fireflies, Twinkle (43_random_kernels.md). Draws are taken in the order of R230. -/

namespace Sys2Proof.Machine

/-- `kernel_RandomAll` (43_random_kernels.md R200). -/
def kernelRandomAll (c : Config) (k : Fin 4) (v : KernelView) : KernelView :=
  let counted := { v.sec with raCnt := (v.sec.raCnt + 1) % c.recolourPeriod }
  if v.sec.raCnt = 0 then
    let d := drawColors (paletteColor c) c.sectionLen v.rand
    ⟨counted, fillSection c k v.fb (fun i => d.1.getD i Color.black), d.2⟩
  else ⟨counted, v.fb, v.rand⟩

/-- `kernel_RandomOne` (43_random_kernels.md R204). -/
def kernelRandomOne (c : Config) (k : Fin 4) (v : KernelView) : KernelView :=
  let d := v.rand.draw c.sectionLen
  let col := randomColor c d.2
  ⟨{ v.sec with roLast := d.1 }, fbWrite c.pixels v.fb (c.sectionStart k + d.1) col.1, col.2⟩

/-- `kernel_Raindrops`: one pixel is set, every pixel is shown before this frame's decay, then every pixel decays
(43_random_kernels.md R207). -/
def kernelRaindrops (c : Config) (k : Fin 4) (v : KernelView) : KernelView :=
  let d := v.rand.draw c.sectionLen
  let col := randomColor c d.2
  let shown := v.sec.rdCol.set d.1 col.1
  ⟨{ v.sec with rdCol := shown.map decay }, fillSection c k v.fb (fun i => shown.getD i Color.black), col.2⟩

/-! ### Fireflies -/

/-- One active pixel's new phase and brightness (43_random_kernels.md R213). -/
def ffAdvancePixel (ph : Phase) (bri : BitVec 8) : Phase × BitVec 8 :=
  if ph = .fadeIn then
    let b := min (bri.toNat + 50) 255
    (if b = 255 then .fadeOut else ph, BitVec.ofNat 8 b)
  else
    let b := bri.toNat - 30
    (if b = 0 then .off else ph, BitVec.ofNat 8 b)

/-- An active pixel leaves `ff_active` when its fade-out reaches 0 (43_random_kernels.md R213). -/
def ffLeaves (ph : Phase) (bri : BitVec 8) : Bool := decide (ph ≠ .fadeIn) && decide (bri.toNat - 30 = 0)

/-- `ffAdvance`: every pixel of `ff_active` advances; the pixels are independent (43_random_kernels.md R213). -/
def ffAdvance (x : SectionRegs) : SectionRegs :=
  { x with
    ffPhase := x.ffPhase.mapIdx fun k ph =>
      if k ∈ x.ffActive then (ffAdvancePixel ph (x.ffBri.getD k 0)).1 else ph
    ffBri := x.ffBri.mapIdx fun k bri =>
      if k ∈ x.ffActive then (ffAdvancePixel (x.ffPhase.getD k .off) bri).2 else bri
    ffActive := x.ffActive.filter fun k => !ffLeaves (x.ffPhase.getD k .off) (x.ffBri.getD k 0) }

/-- `offs`: the pixels that are off, ascending (43_random_kernels.md R215). -/
def ffOffs (len : Nat) (x : SectionRegs) : List Nat :=
  (List.range len).filter fun k => decide (x.ffPhase.getD k .off = .off)

/-- Add an element to an ascending list without repeats. -/
def insertAscending (k : Nat) : List Nat → List Nat
  | [] => [k]
  | j :: js => if k < j then k :: j :: js else if k = j then j :: js else j :: insertAscending k js

/-- Start a firefly at pixel `k` with this colour (43_random_kernels.md R215). -/
def ffLight (x : SectionRegs) (k : Nat) (col : Color) : SectionRegs :=
  { x with
    ffCol := x.ffCol.set k col
    ffPhase := x.ffPhase.set k .fadeIn
    ffBri := x.ffBri.set k 0
    ffActive := insertAscending k x.ffActive }

/-- `ffSpawn` (43_random_kernels.md R215): the draws are `go`, then `j`, then those of `randomColor`. -/
def ffSpawn (c : Config) (x : SectionRegs) (p : RandomPort) : SectionRegs × RandomPort :=
  if x.ffActive.length < 3 then
    let go := p.draw 2
    let offs := ffOffs c.sectionLen x
    if go.1 = 1 ∧ offs ≠ [] then
      let j := go.2.draw offs.length
      let col := randomColor c j.2
      (ffLight x (offs.getD j.1 0) col.1, col.2)
    else (x, go.2)
  else (x, p)

/-- The colour a firefly pixel shows (43_random_kernels.md R216). -/
def ffShown (x : SectionRegs) (i : Nat) : Color :=
  applyBrightness (x.ffCol.getD i Color.black) (x.ffBri.getD i 0).toNat 255

/-- `kernel_Fireflies`: advance, then spawn, then display (43_random_kernels.md R212). -/
def kernelFireflies (c : Config) (k : Fin 4) (v : KernelView) : KernelView :=
  let sp := ffSpawn c (ffAdvance v.sec) v.rand
  ⟨sp.1, fillSection c k v.fb (ffShown sp.1), sp.2⟩

/-! ### Twinkle, running RandomFade (30_encoding.md R105) -/

/-- The section's framebuffer entries are all `BLACK` (43_random_kernels.md R221). -/
def sectionBlack (c : Config) (k : Fin 4) (fb : FrameBuffer) : Bool :=
  (List.range c.sectionLen).all fun i => decide (readSection c k fb i = Color.black)

/-- `rfSeedIfBlack` (43_random_kernels.md R221). -/
def rfSeedIfBlack (c : Config) (k : Fin 4) (v : KernelView) : KernelView :=
  if sectionBlack c k v.fb then
    let d := drawColors (randomColor c) c.sectionLen v.rand
    ⟨{ v.sec with rfTgt := d.1, rfFs := List.replicate c.sectionLen 0 },
     fillSection c k v.fb (fun i => d.1.getD i Color.black), d.2⟩
  else v

/-- `E`: the pixels whose fade-step counter is 0, ascending (43_random_kernels.md R222). -/
def rfEligible (len : Nat) (x : SectionRegs) : List Nat :=
  (List.range len).filter fun k => decide (x.rfFs.getD k 0 = 0)

/-- `repeat m times` of `rfPick`: `j`, then the draws of `randomColor`; a picked pixel leaves the list (43_random_kernels.md R222). -/
def rfPickLoop (c : Config) : Nat → List Nat → SectionRegs → RandomPort → SectionRegs × RandomPort
  | 0, _, x, p => (x, p)
  | m + 1, el, x, p =>
    let j := p.draw el.length
    let k := el.getD j.1 0
    let col := randomColor c j.2
    rfPickLoop c m (el.eraseIdx j.1) { x with rfTgt := x.rfTgt.set k col.1, rfFs := x.rfFs.set k 20 } col.2

/-- The number of picks `m`, a draw only when `RF_PICK_EXACT` is false (43_random_kernels.md R222). -/
def rfPickCount (c : Config) (eligible : Nat) (p : RandomPort) : Nat × RandomPort :=
  if c.rfPickExact then (min 3 eligible, p) else p.draw (min 3 eligible + 1)

/-- `rfPick` (43_random_kernels.md R222). -/
def rfPick (c : Config) (v : KernelView) : KernelView :=
  let el := rfEligible c.sectionLen v.sec
  let m := rfPickCount c el.length v.rand
  let r := rfPickLoop c m.1 el v.sec m.2
  ⟨r.1, v.fb, r.2⟩

/-- The decremented fade-step counter (43_random_kernels.md R224). -/
def rfCount (fs : BitVec 5) : BitVec 5 := if fs = 0 then 0 else fs - 1

/-- The colour `rfUpdate` writes at a pixel that shows `cur` (43_random_kernels.md R224). -/
def rfShown (cur tgt : Color) (fs : BitVec 5) : Color :=
  if fs = 0 then tgt else lerp cur tgt (20 - ((rfCount fs).toNat : Int)) 20

/-- `rfUpdate`: each pixel reads and writes only its own entry (43_random_kernels.md R224). -/
def rfUpdate (c : Config) (k : Fin 4) (v : KernelView) : KernelView :=
  { v with
    fb := fillSection c k v.fb fun i =>
      rfShown (readSection c k v.fb i) (v.sec.rfTgt.getD i Color.black) (v.sec.rfFs.getD i 0)
    sec := { v.sec with rfFs := v.sec.rfFs.map rfCount } }

/-- `kernel_Twinkle` (43_random_kernels.md R220). DESIGN CHOICE (log 21): the pick and the update follow a seed in the same frame, as
the pseudocode of R220 has it, also when every colour of the seed is BLACK; by the last clause of R226 the section would then stay
black until the next frame reseeds it. -/
def kernelTwinkle (c : Config) (k : Fin 4) (v : KernelView) : KernelView :=
  rfUpdate c k (rfPick c (rfSeedIfBlack c k v))

/-- MODE_RANDOMALL (43_random_kernels.md R200). -/
def execModeRandomAll (s : State) : Host.Outcome State Fault Refusal := .next (s.runKernel kernelRandomAll s.frameSec)

/-- MODE_RANDOMONE (43_random_kernels.md R204). -/
def execModeRandomOne (s : State) : Host.Outcome State Fault Refusal := .next (s.runKernel kernelRandomOne s.frameSec)

/-- MODE_RAINDROPS (43_random_kernels.md R207). -/
def execModeRaindrops (s : State) : Host.Outcome State Fault Refusal := .next (s.runKernel kernelRaindrops s.frameSec)

/-- MODE_TWINKLE (43_random_kernels.md R220). -/
def execModeTwinkle (s : State) : Host.Outcome State Fault Refusal := .next (s.runKernel kernelTwinkle s.frameSec)

/-- MODE_FIREFLIES (43_random_kernels.md R212). -/
def execModeFireflies (s : State) : Host.Outcome State Fault Refusal := .next (s.runKernel kernelFireflies s.frameSec)

end Sys2Proof.Machine
end

