-- ==== Sys2Proof/Machine/Stack.lean ====
section
/-! DEFINITION. The drop-and-stack kernel (44_drop_and_stack.md). -/

namespace Sys2Proof.Machine

/-- The fill frame that starts a colour cycle (44_drop_and_stack.md R253). -/
def dsStart (c : Config) (k : Fin 4) (v : KernelView) : KernelView :=
  { v with
    fb := fillSection c k v.fb (fun _ => c.dsPal (v.sec.dsCi + 1))
    sec := { v.sec with dsPos := (c.sectionLen : Int) - 1, dsRun := c.sectionLen } }

/-- The framebuffer of a falling frame: the drop's previous place goes back to the background, then the drop is painted
(44_drop_and_stack.md R253). -/
def dsPaint (c : Config) (k : Fin 4) (v : KernelView) : FrameBuffer :=
  let at0 : Int := (c.sectionStart k : Int) + v.sec.dsPos
  let erased :=
    if v.sec.dsPos ≠ (c.sectionLen : Int) - 1 then fbWriteInt c.pixels v.fb (at0 + 1) (c.dsPal (v.sec.dsCi + 1))
    else v.fb
  fbWriteInt c.pixels erased at0 (c.dsPal v.sec.dsCi)

/-- The registers after a falling frame: a landed drop starts the next pass, one shorter, or ends the cycle; another drop
keeps falling (44_drop_and_stack.md R253, R254). -/
def dsMove (c : Config) (x : SectionRegs) : SectionRegs :=
  if x.dsPos = (c.sectionLen : Int) - (x.dsRun : Int) then
    if x.dsRun - 1 ≤ 1 then { x with dsPos := -1, dsRun := x.dsRun - 1, dsCi := x.dsCi + 1 }
    else { x with dsPos := (c.sectionLen : Int) - 1, dsRun := x.dsRun - 1 }
  else { x with dsPos := x.dsPos - 1 }

/-- `kernel_DropAndStack` (44_drop_and_stack.md R253). DESIGN CHOICE (log 19): a falling frame writes one or two entries of the section,
as R253 and R258 have it; the last sentence of 70_reset_and_hazards.md R362 would have it rewrite the whole section. -/
def kernelDropAndStack (c : Config) (k : Fin 4) (v : KernelView) : KernelView :=
  if v.sec.dsPos = -1 then dsStart c k v
  else { v with fb := dsPaint c k v, sec := dsMove c v.sec }

/-- MODE_DROPANDSTACK (44_drop_and_stack.md R253). -/
def execModeDropAndStack (s : State) : Host.Outcome State Fault Refusal :=
  .next (s.runKernel kernelDropAndStack s.frameSec)

end Sys2Proof.Machine
end

