-- ==== Sys2Proof/Machine/Frame.lean ====
section
/-! DEFINITION. FRAME: the multiplexer, the mode check and dispatch, the overlay and the pixel writer (46_frame_mux_writer.md); and the loop of R290 one section at a time (log 8). -/

namespace Sys2Proof.Machine

/-- The kernel a mode tag selects (30_encoding.md R104, R105, 46_frame_mux_writer.md R292); none for a reserved tag. -/
def kernelOfTag (t : BitVec 4) : Option (Config → Fin 4 → KernelView → KernelView) :=
  match decodeTag t with
  | .instr .modeOff => some kernelOff
  | .instr .modeSolidColor => some kernelSolidColor
  | .instr .modeSolidPattern => some kernelSolidPattern
  | .instr .modeRainbow => some kernelRainbow
  | .instr .modeSingleColorChase => some kernelSingleColorChase
  | .instr .modeRandomAll => some kernelRandomAll
  | .instr .modeRandomOne => some kernelRandomOne
  | .instr .modeRaindrops => some kernelRaindrops
  | .instr .modeTwinkle => some kernelTwinkle
  | .instr .modeFireflies => some kernelFireflies
  | .instr .modeDropAndStack => some kernelDropAndStack
  | .instr .modeChase => some kernelChase
  | _ => none

/-- `dispatch(s)` (46_frame_mux_writer.md R292). A reserved tag does not reach it: the mode check has passed. -/
def State.dispatch (k : Fin 4) (s : State) : State :=
  match kernelOfTag (s.sec k).mode with
  | some kernel => s.runKernel kernel k
  | none => s

/-- The lowest section whose tag is reserved, if any (46_frame_mux_writer.md R292, `modeCheck`). -/
def State.badSection (s : State) : Option (Fin 4) :=
  ([0, 1, 2, 3] : List (Fin 4)).find? fun k => decide (12 ≤ (s.sec k).mode)

/-- `for s in 0..3: dispatch(s)`, ascending, each kernel to completion (46_frame_mux_writer.md R290). -/
def State.runSections (s : State) : State :=
  (((s.dispatch 0).dispatch 1).dispatch 2).dispatch 3

/-- `overlay()` (46_frame_mux_writer.md R293): it replaces, it does not blend (R294). -/
def State.overlay (s : State) : State :=
  { s with fb := fillSection s.cfg s.sel.sect (fbClear s.cfg.pixels s.fb) (fun _ => s.cfg.highlight) }

/-- The word sent for one framebuffer entry (46_frame_mux_writer.md R303). -/
def pixelWord (c : Config) (fb : FrameBuffer) (i : Nat) : Word :=
  pack c.layout (applyBrightness (Memory.read fb i) c.brightNum c.brightDen)

/-- The events of one frame: `Pix(0)` to `Pix(N-1)`, then `Flush` (20_memory.md R82). -/
def frameEvents (c : Config) (fb : FrameBuffer) : List Event :=
  (List.range c.pixels).map (fun i => Event.pix i (pixelWord c fb i)) ++ [Event.flush]

/-- `render()`: the framebuffer keeps its unscaled colours (46_frame_mux_writer.md R303, R305). -/
def State.render (s : State) : State := s.emit (frameEvents s.cfg s.fb)

/-- FRAME (46_frame_mux_writer.md R290): the overlay in Selecting state; in Normal state the mode check, which may raise
BAD_MODE_TAG before any change (R292), then the four kernels; then the pixel writer. -/
def execFrame (s : State) : Host.Outcome State Fault Refusal :=
  if s.sel.selecting then .next s.overlay.render
  else
    match s.badSection with
    | some k => .next (s.raiseFault .badModeTag (tagInfo k (s.sec k).mode))
    | none => .next s.runSections.render

/-- After a kernel that was stepped on its own: the next section, and after section 3 the pixel writer
(46_frame_mux_writer.md R290, log 8). -/
def State.advanceFrame (s : State) : State :=
  if s.frameSec = 3 then { s.render with inFrame := false, frameSec := 0 }
  else { s with frameSec := s.frameSec + 1 }

/-- What `step` adds after an instruction's own effect: nothing after a command, the loop of R290 after a kernel. -/
def State.finish (e : Encoded) (s : State) : State :=
  match e with
  | .command _ => s
  | .tag _ => s.advanceFrame

end Sys2Proof.Machine
end

