-- ==== Sys2Proof/Machine/Dispatch.lean ====
section
/-! DEFINITION. One arm per instruction, each a direct call of its meaning. -/
namespace Sys2Proof.Machine

def exec (i : Instr) (s : State) : Host.Outcome State Fault Refusal :=
  match i with
  | .nop => Sys2Proof.Machine.execNop s
  | .frame => Sys2Proof.Machine.execFrame s
  | .toggleSelect => Sys2Proof.Machine.execToggleSelect s
  | .button2 => Sys2Proof.Machine.execButton2 s
  | .nextMode => Sys2Proof.Machine.execNextMode s
  | .cursor => Sys2Proof.Machine.execCursor s
  | .modeOff => Sys2Proof.Machine.execModeOff s
  | .modeSolidColor => Sys2Proof.Machine.execModeSolidColor s
  | .modeSolidPattern => Sys2Proof.Machine.execModeSolidPattern s
  | .modeRainbow => Sys2Proof.Machine.execModeRainbow s
  | .modeSingleColorChase => Sys2Proof.Machine.execModeSingleColorChase s
  | .modeRandomAll => Sys2Proof.Machine.execModeRandomAll s
  | .modeRandomOne => Sys2Proof.Machine.execModeRandomOne s
  | .modeRaindrops => Sys2Proof.Machine.execModeRaindrops s
  | .modeTwinkle => Sys2Proof.Machine.execModeTwinkle s
  | .modeFireflies => Sys2Proof.Machine.execModeFireflies s
  | .modeDropAndStack => Sys2Proof.Machine.execModeDropAndStack s
  | .modeChase => Sys2Proof.Machine.execModeChase s

end Sys2Proof.Machine
end

