-- ==== Sys2Proof/Machine/Step.lean ====
section
/-! DEFINITION. One step of the block, and where a row of the opcode table is put so that the next step runs it. -/

namespace Sys2Proof.Machine

/-- One step (20_memory.md R77, R80): release a reset, stay quiescent, or take an instruction, decode it and run it to
completion; a word or tag that decodes to no instruction raises its fault (60_exceptions.md R327). -/
def step (s : State) : Host.Outcome State Fault Refusal :=
  match s.fetch with
  | .release c => .next (s.release c)
  | .quiet => .next s
  | .take e s' =>
    match decode e with
    | .instr i =>
      match exec i s' with
      | .next t => .next (s.orWait (t.finish e))
      | .fault r => .fault r
      | .refused r => .refused r
    | .illegalCommand => .next (s'.reject e)
    | .reservedTag => .next (s'.reject e)

/-- `s` with the bits of an opcode-table row where `step` takes its next instruction (log 12). -/
def State.withFetchWord (s : State) (nbits w : Nat) : State :=
  match tableEncoded nbits w with
  | some e => s.placeEncoded e
  | none => s

end Sys2Proof.Machine
end

