-- ==== Sys2Proof/Safety.lean ====
section
/-! DEFINITION. The terms claims use: the invariant of the block, what a safe run is, where a section lies, and the values and the state of the random source after so many draws. -/

/-- How many draws one random colour takes (40_color_units.md R140). -/
def Sys2Proof.Config.colorDraws (c : Sys2Proof.Config) : Nat := if c.restrictRandom then 1 else 3

namespace Sys2Proof.Machine

/-! ### Where a section lies -/

/-- Index `i` lies in section `k`: `start_k <= i < end_k` (00_scope.md R16). -/
abbrev InSection (c : Config) (k : Fin 4) (i : Nat) : Prop :=
  c.sectionStart k ≤ i ∧ i < c.sectionStart k + c.sectionLen

/-! ### Draws to come -/

/-- The raw value the source gives to the `i`-th draw from now on, counted from 0 (log 6). -/
def RandomPort.raw (p : RandomPort) (i : Nat) : Nat := p.queued.getD i (Config.freeDraw (p.taken + i))

/-- The source after `m` more draws. -/
def RandomPort.after (p : RandomPort) (m : Nat) : RandomPort :=
  { p with queued := p.queued.drop m, taken := p.taken + m }

/-- The random colour whose first draw is the `i`-th from now on (40_color_units.md R136). -/
def drawnColor (c : Config) (p : RandomPort) (i : Nat) : Color :=
  if c.restrictRandom then c.pal (BitVec.ofNat 3 (p.raw i % 8))
  else ⟨BitVec.ofNat 8 (p.raw i % 256), BitVec.ofNat 8 (p.raw (i + 1) % 256), BitVec.ofNat 8 (p.raw (i + 2) % 256)⟩

/-! ### The picks of RandomFade (43_random_kernels.md R222) -/

/-- The number of the first draw of pick `n`, counted from 0: its `j`; the draws of its random colour follow. -/
def pickStart (c : Config) (n : Nat) : Nat := (if c.rfPickExact then 0 else 1) + n * (1 + c.colorDraws)

/-- `E` after the pixels of `picked` are removed: the pixels whose counter is 0 and that are not among them, ascending. -/
def eligibleWithout (len : Nat) (x : SectionRegs) (picked : List Nat) : List Nat :=
  (List.range len).filter fun k => decide (x.rfFs.getD k 0 = 0) && decide (k ∉ picked)

/-! ### Register widths (10_state.md R53) -/

/-- Every register of a section keeps within the width R53 gives it; the registers not named here have it by their type. -/
abbrev SectionRegs.Fits (c : Config) (x : SectionRegs) : Prop :=
  x.pattern.length = c.patternLen ∧
  x.sccIdx < 2 ^ c.indexWidth ∧ x.chIdx < 2 ^ c.indexWidth ∧ x.raCnt < 2 ^ c.counterWidth ∧ x.roLast < 2 ^ c.indexWidth ∧
  x.rdCol.length = c.sectionLen ∧ x.ffCol.length = c.sectionLen ∧ x.ffPhase.length = c.sectionLen ∧
  x.ffBri.length = c.sectionLen ∧ x.ffActive.Sublist (List.range c.sectionLen) ∧
  x.rfTgt.length = c.sectionLen ∧ x.rfFs.length = c.sectionLen ∧
  x.dsRows < 2 ^ (c.indexWidth + 1) ∧ x.dsRun < 2 ^ (c.indexWidth + 1) ∧
  -(2 ^ c.indexWidth : Int) ≤ x.dsPos ∧ x.dsPos < (2 ^ c.indexWidth : Int)

/-- Every register of the block keeps within its width: the framebuffer has `N` entries, the sections fit, and so does the cursor. -/
abbrev State.Fits (s : State) : Prop :=
  Memory.wf s.cfg.pixels s.fb = true ∧ (∀ k : Fin 4, (s.sec k).Fits s.cfg) ∧ s.sel.pixel < 2 ^ s.cfg.indexWidth

/-! ### The invariant -/

/-- The brightness a firefly can have in a phase (43_random_kernels.md R214, R217; 10_state.md R42). -/
def Phase.levels : Phase → List (BitVec 8)
  | .off => [0]
  | .fadeIn => [0, 50, 100, 150, 200, 250]
  | .fadeOut => [255, 225, 195, 165, 135, 105, 75, 45, 15]

/-- The Fireflies registers of a section of length `len` (10_state.md R42, 43_random_kernels.md R217). -/
abbrev SectionRegs.FirefliesInv (len : Nat) (x : SectionRegs) : Prop :=
  x.ffCol.length = len ∧ x.ffPhase.length = len ∧ x.ffBri.length = len ∧
  x.ffActive = (List.range len).filter (fun k => decide (x.ffPhase.getD k .off ≠ .off)) ∧
  x.ffActive.length ≤ 3 ∧
  ∀ k < len, x.ffBri.getD k 0 ∈ (x.ffPhase.getD k .off).levels

/-- The RandomFade registers of a section of length `len` (10_state.md R43). -/
abbrev SectionRegs.FadeInv (len : Nat) (x : SectionRegs) : Prop :=
  x.rfTgt.length = len ∧ x.rfFs.length = len ∧ ∀ f ∈ x.rfFs, f ≤ 20

/-- The DropAndStack registers of a section of length `len` (10_state.md R44, 44_drop_and_stack.md R255). -/
abbrev SectionRegs.StackInv (len : Nat) (x : SectionRegs) : Prop :=
  x.dsRows = 0 ∧ x.dsRun ≤ len ∧
  (x.dsPos = -1 ∨ (1 ≤ x.dsRun ∧ (len : Int) - (x.dsRun : Int) ≤ x.dsPos ∧ x.dsPos ≤ (len : Int) - 1))

/-- Every register of a section holds a legal value (10_state.md R33 to R44). -/
abbrev SectionRegs.Inv (c : Config) (x : SectionRegs) : Prop :=
  x.mode < 12 ∧ x.pattern.length = c.patternLen ∧
  x.sccIdx < c.sectionLen ∧ x.chIdx < c.sectionLen ∧ x.raCnt < c.recolourPeriod ∧ x.roLast < c.sectionLen ∧
  x.rdCol.length = c.sectionLen ∧
  x.FirefliesInv c.sectionLen ∧ x.FadeInv c.sectionLen ∧ x.StackInv c.sectionLen

/-- The block runs, or has latched ILLEGAL_COMMAND: a legal configuration, a canonical framebuffer, legal registers in every
section, the inert cursor at 0 (93_implementation_defined.md I18), and a fault register that is clear or names an illegal word. -/
abbrev State.Good (s : State) : Prop :=
  s.cfg.legal = true ∧ Memory.wf s.cfg.pixels s.fb = true ∧ (∀ k : Fin 4, (s.sec k).Inv s.cfg) ∧ s.sel.pixel = 0 ∧
  ((s.fault = 0 ∧ s.faultInfo = 0) ∨ (s.fault = 9 ∧ (Encoded.command s.faultInfo).wf = false))

/-- The block has rejected its configuration; nothing else is said of it (70_reset_and_hazards.md R351). -/
abbrev State.Rejected (s : State) : Prop := s.cfg.legal = false ∧ s.fault = 11 ∧ s.faultInfo = 0

/-- The invariant every step keeps. -/
abbrev State.Inv (s : State) : Prop := s.Rejected ∨ s.Good

/-- A safe state: no fault is latched (60_exceptions.md R322: "a claim about a run takes no fault latched as a premise"). -/
abbrev State.Safe (s : State) : Prop := s.faultValid = false

/-- The environment serves the block: the driver accepts events and the random source answers (70_reset_and_hazards.md R354). -/
abbrev State.Served (s : State) : Prop := s.driverReady = true ∧ s.rand.answering = true

/-- The block takes the command word `w` next, and `ws` stay on the port: no reset, no fault, not inside a FRAME
(45_control_commands.md: a command runs only when no fault is latched). -/
abbrev State.TakesCommand (s : State) (w : Word) (ws : List Word) : Prop :=
  s.rst = none ∧ s.faultValid = false ∧ s.inFrame = false ∧ s.cmds = w :: ws

/-- The framebuffer is in its canonical form (log 9). -/
abbrev State.Canonical (s : State) : Prop := Memory.wf s.cfg.pixels s.fb = true

/-- The mode rows in the order of the source's mode list (30_encoding.md R104). -/
def modeList : List Instr :=
  [.modeOff, .modeSolidColor, .modeSolidPattern, .modeRainbow, .modeSingleColorChase, .modeRandomAll, .modeRandomOne,
   .modeRaindrops, .modeTwinkle, .modeFireflies, .modeDropAndStack, .modeChase]

/-- A channel moves toward a target without passing it (43_random_kernels.md R225). -/
abbrev Toward (before now target : Byte) : Prop :=
  (before ≤ now ∧ now ≤ target) ∨ (target ≤ now ∧ now ≤ before)

end Sys2Proof.Machine
end

