-- ==== Sys2Proof/Certificates/Slice0/Obligations.lean ====
section
/-! DEFINITION. The statements about PPX-FX for the provers, each with the rule of spec/ it formalises. -/

open Sys2Proof Sys2Proof.Machine

/-! ### Decoding and encoding -/

/-- 30_encoding.md R103, 60_exceptions.md R323: a word with a non-zero `RSVD` or an `OP` of 6 or more decodes to no command
and latches ILLEGAL_COMMAND with the word; every other word decodes to the command of its `OP` in R102, and is its
encoding. That the illegal word leaves the command port is the model's (log 3, DEDUCED). -/
def Obligations.CommandWordDecodesByItsFields : Prop :=
  ∀ w : Word,
    (¬ (w.extractLsb' 0 28 = 0 ∧ (w.extractLsb' 28 4).toNat < 6) →
      decode (.command w) = .illegalCommand ∧
      ∀ (s : State) (ws : List Word), s.TakesCommand w ws →
        step s = .next { s with cmds := ws, fault := 9, faultInfo := w }) ∧
    (w.extractLsb' 0 28 = 0 ∧ (w.extractLsb' 28 4).toNat < 6 →
      ∃ i : Instr, [Instr.nop, .frame, .toggleSelect, .button2, .nextMode, .cursor][(w.extractLsb' 28 4).toNat]? = some i ∧
        decode (.command w) = .instr i ∧ encode i = .command w)

/-- 30_encoding.md R104, R107: tags 0 to 11 are the source's mode list in order, 12 to 15 are reserved, and `nextMode` walks the
list and returns after twelve steps. -/
def Obligations.ModeTagsFollowTheModeList : Prop :=
  ∀ t : BitVec 4,
    (∀ i : Instr, modeList[t.toNat]? = some i → decode (.tag t) = .instr i) ∧
    (12 ≤ t.toNat → decode (.tag t) = .reservedTag) ∧
    (t.toNat < 12 → (nextMode t).toNat = (t.toNat + 1) % 12 ∧ nextMode^[12] t = t)

/-- Decoding an encoded well-formed instruction gives it back, for every row of the opcode table. -/
def Obligations.DecodeUndoesEncode : Prop :=
  ∀ i : Instr, i.wf = true → decode (encode i) = .instr i

/-- 30_encoding.md R102, R104: words written out from the opcode map and the tag table decode to the rows they stand for. That a row
of fewer than 32 bits is a mode tag is the model's choice (log 12); the clauses with 8 bits rest on it. -/
def Obligations.TableWordsDecodeToTheirRows : Prop :=
  decodeTableWord 32 0x00000000 = some .nop ∧ decodeTableWord 32 0x10000000 = some .frame ∧
  decodeTableWord 32 0x20000000 = some .toggleSelect ∧ decodeTableWord 32 0x30000000 = some .button2 ∧
  decodeTableWord 32 0x40000000 = some .nextMode ∧ decodeTableWord 32 0x50000000 = some .cursor ∧
  decodeTableWord 8 0x0 = some .modeOff ∧ decodeTableWord 8 0x7 = some .modeRaindrops ∧
  decodeTableWord 8 0x8 = some .modeTwinkle ∧ decodeTableWord 8 0xB = some .modeChase ∧
  decodeTableWord 32 0x60000000 = none ∧ decodeTableWord 32 0x10000001 = none ∧ decodeTableWord 8 0xC = none

/-- 30_encoding.md R111, R112: each line emits the words of its expansion. -/
def Obligations.AssemblerEmitsTheExpansions : Prop :=
  (∀ n : Nat, (AsmLine.frames n).words = List.replicate n 0x10000000) ∧
  (∀ n : Nat, (AsmLine.setModeSteps n).words = List.replicate n 0x40000000) ∧
  AsmLine.button1.words = [0x20000000] ∧ AsmLine.button3.words = [0x40000000] ∧ AsmLine.button4.words = [0x50000000] ∧
  AsmLine.blank.words = [] ∧
  (∀ w : Word, (AsmLine.word w).words = [w])

/-! ### The step -/

/-- A step runs the decoded instruction (the model's step, log 3 and log 8): a command on the state without its word; a kernel
inside a FRAME, after which the loop of 46_frame_mux_writer.md R290 goes on to the next section or, after section 3, renders. -/
def Obligations.StepRunsTheDecodedInstruction : Prop :=
  (∀ (s : State) (w : Word) (ws : List Word) (i : Instr),
    s.TakesCommand w ws → s.Served → i.wf = true → decode (.command w) = .instr i →
    step s = exec i { s with cmds := ws }) ∧
  (∀ (s t : State) (i : Instr),
    s.rst = none → s.faultValid = false → s.inFrame = true → s.Served → i.wf = true →
    decode (.tag (s.sec s.frameSec).mode) = .instr i → exec i s = .next t →
    step s = .next (if s.frameSec = 3 then { t.render with inFrame := false, frameSec := 0 }
                    else { t with frameSec := s.frameSec + 1 }))

/-- 20_memory.md R85, 70_reset_and_hazards.md R366, as the model has them (log 7): with a driver that does not accept, a step that
is no reset emits nothing, and with a random source that does not answer, it takes no draw. A command or a stepped kernel that would
emit to such a driver or draw from such a source waits and changes no state; so do every FRAME that renders, without the
driver, and every Normal FRAME with a section in RandomOne or Raindrops, without the random source. -/
def Obligations.UnservedBlockEmitsAndDrawsNothing : Prop :=
  (∀ s t : State, step s = .next t → s.rst = none →
    (s.driverReady = false → t.trace = s.trace) ∧ (s.rand.answering = false → t.rand = s.rand)) ∧
  (∀ (s t : State) (w : Word) (ws : List Word) (i : Instr), s.TakesCommand w ws → decode (.command w) = .instr i →
    exec i { s with cmds := ws } = .next t →
    ((s.driverReady = false ∧ t.trace ≠ s.trace) ∨ (s.rand.answering = false ∧ t.rand ≠ s.rand)) → step s = .next s) ∧
  (∀ (s t : State) (i : Instr), s.rst = none → s.faultValid = false → s.inFrame = true →
    decode (.tag (s.sec s.frameSec).mode) = .instr i → exec i s = .next t →
    ((s.driverReady = false ∧ s.frameSec = 3) ∨ (s.rand.answering = false ∧ t.rand ≠ s.rand)) → step s = .next s) ∧
  (∀ (s : State) (ws : List Word), s.TakesCommand 0x10000000 ws →
    (s.driverReady = false → (s.sel.selecting = true ∨ ∀ k, (s.sec k).mode < 12) → step s = .next s) ∧
    (s.rand.answering = false → s.sel.selecting = false → (∀ k, (s.sec k).mode < 12) →
      (∃ k, (s.sec k).mode = 6 ∨ (s.sec k).mode = 7) → step s = .next s))

/-- 60_exceptions.md R322: while a fault is latched the block takes no step; a reset with a legal configuration leaves that state. -/
def Obligations.HaltedBlockTakesNoStep : Prop :=
  (∀ s : State, s.rst = none → s.faultValid = true → step s = .next s) ∧
  (∀ (s : State) (c : Config), s.rst = some c → c.legal = true → ∃ t, step s = .next t ∧ t.faultValid = false)

/-- 60_exceptions.md R321, R327: a step that latches a fault changes nothing but the fault registers and the port it took the
word from. The cause is an illegal word, recorded whole; or a FRAME word in Normal state, with the lowest section that has a reserved
tag; or a kernel stepped inside a FRAME, with the section in turn. That the word leaves the port is the model's (log 3), and so is
the stepped kernel, which takes no word (log 8). -/
def Obligations.FaultsArePrecise : Prop :=
  ∀ s t : State, step s = .next t → s.rst = none → s.faultValid = false → t.faultValid = true →
    t = { s with fault := t.fault, faultInfo := t.faultInfo, cmds := t.cmds } ∧
    ((t.fault = 9 ∧ s.inFrame = false ∧ s.cmds = t.faultInfo :: t.cmds ∧ decode (.command t.faultInfo) = .illegalCommand) ∨
     (t.fault = 10 ∧ ∃ k : Fin 4, 12 ≤ (s.sec k).mode ∧ t.faultInfo.toNat = 16 * k.val + (s.sec k).mode.toNat ∧
       ((s.inFrame = false ∧ s.cmds = 0x10000000 :: t.cmds ∧ s.sel.selecting = false ∧ ∀ j, j < k → (s.sec j).mode < 12) ∨
        (s.inFrame = true ∧ k = s.frameSec ∧ t.cmds = s.cmds))))

/-- 60_exceptions.md R326: every operation is total, so every step has a next state. -/
def Obligations.EveryStepHasANextState : Prop :=
  ∀ s : State, ∃ t, step s = .next t

/-! ### Reset -/

/-- 10_state.md R51: what makes a configuration legal, condition by condition (that a pattern has `PL` entries is the model's
reading of 00_scope.md R6, log 17). -/
def Obligations.LegalConfigurationMeansTheListedConditions : Prop :=
  ∀ c : Config, c.legal = true ↔
    (1 ≤ c.width ∧ 1 ≤ c.height ∧ c.width * c.height % 4 = 0 ∧ 1 ≤ c.brightDen ∧ c.brightNum ≤ c.brightDen ∧
     1 ≤ c.frameDelayMs ∧ (∀ i j : BitVec 3, c.pal i = c.pal j → i = j) ∧ 1 ≤ c.patternLen ∧
     (∀ k : Fin 4, c.initMode[k].toNat ≤ 11) ∧ ∀ k : Fin 4, c.initPattern[k].length = c.patternLen)

/-- 70_reset_and_hazards.md R352: after a reset with a legal configuration every state element has its reset value. -/
def Obligations.ResetLoadsEveryResetValue : Prop :=
  ∀ (s : State) (c : Config), s.rst = some c → c.legal = true → ∃ t, step s = .next t ∧
    t.cfg = c ∧ (∀ i, Memory.read t.fb i = Color.black) ∧
    (∀ k : Fin 4, (t.sec k).mode = c.initMode[k] ∧ (t.sec k).solid = c.initSolid[k] ∧ (t.sec k).pattern = c.initPattern[k] ∧
      (t.sec k).rbStep = 0 ∧ (t.sec k).sccIdx = 0 ∧ (t.sec k).sccPal = 0 ∧ (t.sec k).chIdx = 0 ∧ (t.sec k).raCnt = 0 ∧
      (t.sec k).roLast = 0 ∧ (t.sec k).rdCol = List.replicate (c.pixels / 4) Color.black ∧
      (t.sec k).ffCol = List.replicate (c.pixels / 4) Color.black ∧ (t.sec k).ffPhase = List.replicate (c.pixels / 4) .off ∧
      (t.sec k).ffBri = List.replicate (c.pixels / 4) 0 ∧ (t.sec k).ffActive = [] ∧
      (t.sec k).rfTgt = List.replicate (c.pixels / 4) Color.black ∧ (t.sec k).rfFs = List.replicate (c.pixels / 4) 0 ∧
      (t.sec k).dsCi = 0 ∧ (t.sec k).dsRows = 0 ∧ (t.sec k).dsPos = -1 ∧ (t.sec k).dsRun = c.pixels / 4) ∧
    t.sel.selecting = false ∧ t.sel.sect = 0 ∧ t.sel.pixel = 0 ∧ t.fault = 0 ∧ t.faultInfo = 0 ∧ t.trace = []

/-- 70_reset_and_hazards.md R351, 60_exceptions.md R325: an illegal configuration latches CONFIG_REJECT at reset and the block
never executes a command: the next step, with no reset, leaves it as it is. -/
def Obligations.ResetRejectsAnIllegalConfiguration : Prop :=
  ∀ (s : State) (c : Config), s.rst = some c → c.legal = false → ∃ t, step s = .next t ∧
    t.fault = 11 ∧ t.faultInfo = 0 ∧ t.trace = [] ∧ t.rst = none ∧ step t = .next t

/-- The invariant holds at reset, and after a reset with any legal configuration. -/
def Obligations.InvariantHoldsAtReset : Prop :=
  State.reset.Inv ∧
  ∀ (c : Config) (cmds : List Word) (rand : RandomPort) (d : Bool), c.legal = true → (State.afterReset c cmds rand d).Inv

/-- Every step keeps the invariant: a legal configuration, a canonical framebuffer, every register of every section legal
(10_state.md R33 to R48, R42, 42_chase_kernels.md R182, 43_random_kernels.md R217, 44_drop_and_stack.md R255), or
CONFIG_REJECT latched. -/
def Obligations.EveryStepKeepsTheInvariant : Prop :=
  ∀ s t : State, s.Inv → step s = .next t → t.Inv

/-! ### Whole-machine rules about one instruction -/

/-- Every instruction keeps the framebuffer in its canonical form, whatever the other registers hold (log 9). -/
def Obligations.EveryInstructionKeepsTheFramebufferCanonical : Prop :=
  ∀ (i : Instr) (s t : State), s.Canonical → exec i s = .next t → t.Canonical

/-- 10_state.md R33 to R35, R44 to R47, 00_scope.md R6: the configuration and the inputs are written by no instruction, a mode
only by NEXT_MODE, a bound colour or pattern and the selected section only by BUTTON2, `SEL.selecting` only by TOGGLE_SELECT,
`SEL.pixel` and `ds_rows` by none. -/
def Obligations.SharedRegistersHaveTheirOneWriter : Prop :=
  ∀ (i : Instr) (s t : State), exec i s = .next t →
    (t.cfg = s.cfg ∧ t.rst = s.rst ∧ t.cmds = s.cmds ∧ t.driverReady = s.driverReady ∧
      t.rand.answering = s.rand.answering ∧ t.inFrame = s.inFrame ∧ t.frameSec = s.frameSec ∧ t.rejections = s.rejections) ∧
    (i ≠ .nextMode → ∀ k, (t.sec k).mode = (s.sec k).mode) ∧
    (i ≠ .button2 → t.sel.sect = s.sel.sect ∧
      ∀ k, (t.sec k).solid = (s.sec k).solid ∧ (t.sec k).pattern = (s.sec k).pattern) ∧
    (i ≠ .toggleSelect → t.sel.selecting = s.sel.selecting) ∧
    t.sel.pixel = s.sel.pixel ∧ (∀ k, (t.sec k).dsRows = (s.sec k).dsRows) ∧
    (i ≠ .frame → t.fault = s.fault ∧ t.faultInfo = s.faultInfo)

/-- 10_state.md R50: a FRAME leaves the registers of every mode but a section's current one as they are, and a control command
leaves all per-mode registers of the kernels as they are. -/
def Obligations.PerModeRegistersAreKept : Prop :=
  (∀ s t : State, exec .frame s = .next t → ∀ k : Fin 4,
    ((s.sec k).mode ≠ 3 → (t.sec k).rbStep = (s.sec k).rbStep) ∧
    ((s.sec k).mode ≠ 4 → (t.sec k).sccIdx = (s.sec k).sccIdx ∧ (t.sec k).sccPal = (s.sec k).sccPal) ∧
    ((s.sec k).mode ≠ 5 → (t.sec k).raCnt = (s.sec k).raCnt) ∧
    ((s.sec k).mode ≠ 6 → (t.sec k).roLast = (s.sec k).roLast) ∧
    ((s.sec k).mode ≠ 7 → (t.sec k).rdCol = (s.sec k).rdCol) ∧
    ((s.sec k).mode ≠ 8 → (t.sec k).rfTgt = (s.sec k).rfTgt ∧ (t.sec k).rfFs = (s.sec k).rfFs) ∧
    ((s.sec k).mode ≠ 9 → (t.sec k).ffCol = (s.sec k).ffCol ∧ (t.sec k).ffPhase = (s.sec k).ffPhase ∧
      (t.sec k).ffBri = (s.sec k).ffBri ∧ (t.sec k).ffActive = (s.sec k).ffActive) ∧
    ((s.sec k).mode ≠ 10 → (t.sec k).dsCi = (s.sec k).dsCi ∧ (t.sec k).dsPos = (s.sec k).dsPos ∧
      (t.sec k).dsRun = (s.sec k).dsRun) ∧
    ((s.sec k).mode ≠ 11 → (t.sec k).chIdx = (s.sec k).chIdx)) ∧
  (∀ (i : Instr) (s t : State), i ∈ [.nop, .toggleSelect, .button2, .nextMode, .cursor] → exec i s = .next t →
    ∀ k : Fin 4, t.sec k = { s.sec k with mode := (t.sec k).mode, solid := (t.sec k).solid, pattern := (t.sec k).pattern })

/-- 20_memory.md R84, 10_state.md R47: the output trace is only an observation and the cursor only a register: no instruction
reads either, so a run with an earlier trace or another cursor is the same run with these carried along. -/
def Obligations.TraceAndCursorAreNeverRead : Prop :=
  ∀ (i : Instr) (s t : State) (p : Nat) (es : List Event), exec i s = .next t →
    exec i { s with sel := { s.sel with pixel := p }, trace := es ++ s.trace } =
      .next { t with sel := { t.sel with pixel := p }, trace := es ++ t.trace }

/-- 20_memory.md R82: a FRAME that raises no fault emits `Pix(0)` to `Pix(N-1)` in ascending order, then one `Flush`; no other
instruction emits anything. -/
def Obligations.OnlyFrameEmitsAndEmitsOneWholeFrame : Prop :=
  (∀ (i : Instr) (s t : State), i ≠ .frame → exec i s = .next t → t.trace = s.trace) ∧
  (∀ s : State, s.sel.selecting = true ∨ (∀ k, (s.sec k).mode < 12) → ∃ (t : State) (w : Nat → Word),
    exec .frame s = .next t ∧ t.fault = s.fault ∧
    t.trace = s.trace ++ ((List.range (s.cfg.width * s.cfg.height)).map (fun i => Event.pix i (w i)) ++ [Event.flush]))

/-! ### Control commands -/

/-- 45_control_commands.md R270, R278: NOP and CURSOR are the same state after as before. -/
def Obligations.NopAndCursorChangeNothing : Prop :=
  ∀ s : State, exec .nop s = .next s ∧ exec .cursor s = .next s

/-- 45_control_commands.md R272: TOGGLE_SELECT flips `SEL.selecting`, blackens every entry, and changes nothing else. -/
def Obligations.ToggleSelectFlipsAndClears : Prop :=
  ∀ s : State, s.Canonical → ∃ t, exec .toggleSelect s = .next t ∧
    t.sel.selecting = !s.sel.selecting ∧ (∀ i, Memory.read t.fb i = Color.black) ∧
    t = { s with sel := { s.sel with selecting := t.sel.selecting }, fb := t.fb }

/-- 45_control_commands.md R274: BUTTON2 in Selecting state moves to the next section; in Normal state it cycles the bound colour
or every colour of the pattern of the selected section, by its mode, and changes nothing else. -/
def Obligations.ButtonTwoSelectsOrCycles : Prop :=
  (∀ s : State, s.sel.selecting = true → ∃ t, exec .button2 s = .next t ∧
    t.sel.sect.val = (s.sel.sect.val + 1) % 4 ∧ t = { s with sel := { s.sel with sect := t.sel.sect } }) ∧
  (∀ s : State, s.sel.selecting = false → ∃ t, exec .button2 s = .next t ∧
    t = { s with secs := t.secs } ∧ (∀ k, k ≠ s.sel.sect → t.sec k = s.sec k) ∧
    ((s.sec s.sel.sect).mode = 1 →
      t.sec s.sel.sect = { s.sec s.sel.sect with solid := cycleColor s.cfg (s.sec s.sel.sect).solid }) ∧
    ((s.sec s.sel.sect).mode = 2 →
      t.sec s.sel.sect = { s.sec s.sel.sect with pattern := (t.sec s.sel.sect).pattern } ∧
      (t.sec s.sel.sect).pattern.length = (s.sec s.sel.sect).pattern.length ∧
      ∀ j < (s.sec s.sel.sect).pattern.length,
        (t.sec s.sel.sect).pattern.getD j Color.black = cycleColor s.cfg ((s.sec s.sel.sect).pattern.getD j Color.black)) ∧
    ((s.sec s.sel.sect).mode ≠ 1 → (s.sec s.sel.sect).mode ≠ 2 → t.sec s.sel.sect = s.sec s.sel.sect))

/-- 45_control_commands.md R276: NEXT_MODE in Normal state advances the selected section's mode around the list of twelve,
blackens every entry, and changes nothing else; in Selecting state it changes nothing. For a reserved mode 12 to 15, which no run
holds, the next mode is the model's choice (log 15). -/
def Obligations.NextModeAdvancesAndClears : Prop :=
  (∀ s : State, s.sel.selecting = true → exec .nextMode s = .next s) ∧
  (∀ s : State, s.Canonical → s.sel.selecting = false → ∃ t, exec .nextMode s = .next t ∧
    (t.sec s.sel.sect).mode.toNat = ((s.sec s.sel.sect).mode.toNat + 1) % 12 ∧
    t.sec s.sel.sect = { s.sec s.sel.sect with mode := (t.sec s.sel.sect).mode } ∧
    (∀ k, k ≠ s.sel.sect → t.sec k = s.sec k) ∧ (∀ i, Memory.read t.fb i = Color.black) ∧
    t = { s with secs := t.secs, fb := t.fb })

/-- 30_encoding.md R107 with 45_control_commands.md R276: twelve NEXT_MODE commands in Normal state return the machine, but for
the cleared framebuffer, to where it was. -/
def Obligations.TwelveNextModesReturn : Prop :=
  ∀ s : State, s.Canonical → s.sel.selecting = false → (s.sec s.sel.sect).mode < 12 →
    ∃ f : Nat → State, f 0 = s ∧ (∀ n < 12, exec .nextMode (f n) = .next (f (n + 1))) ∧ f 12 = { s with fb := [] }

/-- 40_color_units.md R138, R139: on distinct palette entries `cycleColor` is the rotation of the palette, eight applications
return every entry, and a colour outside the palette gives entry 0. -/
def Obligations.CycleColorRotatesThePalette : Prop :=
  ∀ c : Config, c.legal = true →
    (∀ j : BitVec 3, cycleColor c (c.pal j) = c.pal (j + 1) ∧ (cycleColor c)^[8] (c.pal j) = c.pal j) ∧
    (∀ x : Color, (∀ j : BitVec 3, c.pal j ≠ x) → cycleColor c x = c.pal 0) ∧
    (∀ i j : BitVec 3, cycleColor c (c.pal i) = cycleColor c (c.pal j) → c.pal i = c.pal j)

/-! ### FRAME -/

/-- 46_frame_mux_writer.md R293, R295: in Selecting state a FRAME shows the highlight on the selected section and black
elsewhere, emits that frame at the global brightness, and changes no register. -/
def Obligations.SelectingFrameIsTheOverlay : Prop :=
  ∀ s : State, s.Canonical → s.sel.selecting = true → ∃ t, exec .frame s = .next t ∧
    (∀ i, Memory.read t.fb i = if InSection s.cfg s.sel.sect i then s.cfg.highlight else Color.black) ∧
    t.trace = s.trace ++ ((List.range (s.cfg.width * s.cfg.height)).map (fun i => Event.pix i
      (pack s.cfg.layout (applyBrightness (Memory.read t.fb i) s.cfg.brightNum s.cfg.brightDen))) ++ [Event.flush]) ∧
    t = { s with fb := t.fb, trace := t.trace }

/-- 46_frame_mux_writer.md R290, R291, R303: in Normal state with legal tags a FRAME runs the kernels of sections 0, 1, 2, 3 in
that order, each on what the one before left, then emits every entry of the framebuffer they leave, scaled, and keeps it unscaled. -/
def Obligations.NormalFrameRunsTheKernelsThenRenders : Prop :=
  ∀ s : State, s.sel.selecting = false → (∀ k, (s.sec k).mode < 12) → ∃ a b c d t : State,
    exec .frame s = .next t ∧
    a = s.dispatch 0 ∧ b = a.dispatch 1 ∧ c = b.dispatch 2 ∧ d = c.dispatch 3 ∧
    t = { s with
      secs := d.secs, fb := d.fb, rand := d.rand
      trace := s.trace ++ ((List.range (s.cfg.width * s.cfg.height)).map (fun i => Event.pix i
        (pack s.cfg.layout (applyBrightness (Memory.read d.fb i) s.cfg.brightNum s.cfg.brightDen))) ++ [Event.flush]) }

/-- 46_frame_mux_writer.md R292, 60_exceptions.md R324: a FRAME in Normal state with a reserved tag latches BAD_MODE_TAG with the
lowest such section and its tag, and nothing else changes. -/
def Obligations.NormalFrameRefusesAReservedTag : Prop :=
  ∀ (s : State) (k : Fin 4), s.sel.selecting = false → 12 ≤ (s.sec k).mode → (∀ j, j < k → (s.sec j).mode < 12) →
    ∃ info : Word, exec .frame s = .next { s with fault := 10, faultInfo := info } ∧
      info.toNat = 16 * k.val + (s.sec k).mode.toNat

/-- 46_frame_mux_writer.md R292, 30_encoding.md R105: the dispatch of section `k` in a FRAME is what the instruction of its mode
tag does for that section. -/
def Obligations.DispatchRunsTheRowOfTheTag : Prop :=
  ∀ (s : State) (k : Fin 4) (i : Instr), decode (.tag (s.sec k).mode) = .instr i →
    exec i { s with frameSec := k } = .next { s.dispatch k with frameSec := k }

/-- 46_frame_mux_writer.md R290, 20_memory.md R77, R81: the FRAME command, run to completion in one step, does exactly what
stepping its loop one kernel at a time does (the stepped form is the model's, log 8). -/
def Obligations.FrameCommandEqualsTheSteppedLoop : Prop :=
  ∀ s : State, s.rst = none → s.faultValid = false → s.inFrame = false → s.frameSec = 0 → s.Served →
    s.sel.selecting = false → (∀ k, (s.sec k).mode < 12) →
    Sys2Proof.core.run 4 ({ s with inFrame := true } : State) = exec .frame s

/-- 70_reset_and_hazards.md R360: in a FRAME in Normal state every section with a lower index than an Off section ends black. -/
def Obligations.OffErasesTheLowerSections : Prop :=
  ∀ (s : State) (k : Fin 4), s.Good → s.sel.selecting = false → (s.sec k).mode = 0 →
    ∃ t, exec .frame s = .next t ∧ ∀ i < s.cfg.sectionStart k, Memory.read t.fb i = Color.black

/-- 20_memory.md R79, 42_chase_kernels.md R182: every kernel but Off writes only inside its section. -/
def Obligations.KernelsWriteOnlyTheirSection : Prop :=
  ∀ (i : Instr) (s t : State), s.Good → i ∈ modeList → i ≠ .modeOff → exec i s = .next t →
    ∀ j, ¬ InSection s.cfg s.frameSec j → Memory.read t.fb j = Memory.read s.fb j

/-! ### Fill and chase kernels -/

/-- 41_fill_kernels.md R160, R161: Off blackens every entry of the framebuffer, not only its section's, and changes no register. -/
def Obligations.OffClearsTheWholeFramebuffer : Prop :=
  ∀ s : State, s.Canonical → ∃ t, exec .modeOff s = .next t ∧
    (∀ i, Memory.read t.fb i = Color.black) ∧ t = { s with fb := t.fb }

/-- 41_fill_kernels.md R162: SolidColor paints its section with the bound colour and changes nothing else. -/
def Obligations.SolidColorPaintsTheBoundColour : Prop :=
  ∀ s : State, s.Canonical → ∃ t, exec .modeSolidColor s = .next t ∧
    (∀ i, Memory.read t.fb i =
      if InSection s.cfg s.frameSec i then (s.sec s.frameSec).solid else Memory.read s.fb i) ∧
    t = { s with fb := t.fb }

/-- 41_fill_kernels.md R164: SolidPattern paints offset `k` with `pattern[k mod PL]` and changes nothing else. -/
def Obligations.SolidPatternRepeatsThePattern : Prop :=
  ∀ s : State, s.Canonical → 0 < s.cfg.patternLen → (s.sec s.frameSec).pattern.length = s.cfg.patternLen →
    ∃ t, exec .modeSolidPattern s = .next t ∧
    (∀ k < s.cfg.sectionLen, (s.sec s.frameSec).pattern[k % s.cfg.patternLen]? =
      some (Memory.read t.fb (s.cfg.sectionStart s.frameSec + k))) ∧
    (∀ i, ¬ InSection s.cfg s.frameSec i → Memory.read t.fb i = Memory.read s.fb i) ∧
    t = { s with fb := t.fb }

/-- 41_fill_kernels.md R165, R166: Rainbow paints offset `k` with `wheel(((k * 256) div L + step) mod 256)`, then the step
advances modulo 256; nothing else changes. -/
def Obligations.RainbowPaintsThenAdvances : Prop :=
  ∀ s : State, s.Canonical → ∃ t, exec .modeRainbow s = .next t ∧
    (∀ i, Memory.read t.fb i =
      if InSection s.cfg s.frameSec i then
        wheel (((i - s.cfg.sectionStart s.frameSec) * 256 / s.cfg.sectionLen + (s.sec s.frameSec).rbStep.toNat) % 256)
      else Memory.read s.fb i) ∧
    (t.sec s.frameSec).rbStep.toNat = ((s.sec s.frameSec).rbStep.toNat + 1) % 256 ∧
    t = { s with
      fb := t.fb
      secs := s.secs.set s.frameSec { s.sec s.frameSec with rbStep := (t.sec s.frameSec).rbStep } }

/-- 42_chase_kernels.md R180: SingleColorChase blanks its section, lights the pixel at the index with the palette colour, advances
the index modulo L and, when it wraps to 0, the palette index modulo 8; nothing else changes. -/
def Obligations.SingleColorChaseLightsOnePixel : Prop :=
  ∀ s : State, s.Canonical → (s.sec s.frameSec).sccIdx < s.cfg.sectionLen →
    ∃ t, exec .modeSingleColorChase s = .next t ∧
    (∀ i, Memory.read t.fb i =
      if i = s.cfg.sectionStart s.frameSec + (s.sec s.frameSec).sccIdx then s.cfg.pal (s.sec s.frameSec).sccPal
      else if InSection s.cfg s.frameSec i then Color.black else Memory.read s.fb i) ∧
    (t.sec s.frameSec).sccIdx = ((s.sec s.frameSec).sccIdx + 1) % s.cfg.sectionLen ∧
    (t.sec s.frameSec).sccPal.toNat =
      (if (t.sec s.frameSec).sccIdx = 0 then ((s.sec s.frameSec).sccPal.toNat + 1) % 8
       else (s.sec s.frameSec).sccPal.toNat) ∧
    t = { s with
      fb := t.fb
      secs := s.secs.set s.frameSec { s.sec s.frameSec with sccIdx := (t.sec s.frameSec).sccIdx, sccPal := (t.sec s.frameSec).sccPal } }

/-- 42_chase_kernels.md R181: the pair `(scc_idx, scc_pal)` returns after exactly `8 * L` frames of the kernel, and every pair
occurs once in each period. -/
def Obligations.SingleColorChaseHasPeriodEightL : Prop :=
  ∀ (c : Config) (k : Fin 4) (v : KernelView), v.sec.sccIdx < c.sectionLen →
    ((kernelSingleColorChase c k)^[8 * c.sectionLen] v).sec.sccIdx = v.sec.sccIdx ∧
    ((kernelSingleColorChase c k)^[8 * c.sectionLen] v).sec.sccPal = v.sec.sccPal ∧
    ∀ (a : Nat) (b : BitVec 3), a < c.sectionLen → ∃! n, n < 8 * c.sectionLen ∧
      ((kernelSingleColorChase c k)^[n] v).sec.sccIdx = a ∧ ((kernelSingleColorChase c k)^[n] v).sec.sccPal = b

/-- 42_chase_kernels.md R183: Chase blanks its section and places the eight palette colours at `(index + i) mod L`, the highest `i`
winning a shared pixel; the index advances modulo L; nothing else changes. -/
def Obligations.ChasePlacesEightColours : Prop :=
  ∀ s : State, s.Canonical → 0 < s.cfg.sectionLen → ∃ t, exec .modeChase s = .next t ∧
    (∀ (o : Nat) (j : BitVec 3), ((s.sec s.frameSec).chIdx + j.toNat) % s.cfg.sectionLen = o →
      (∀ j' : BitVec 3, j < j' → ((s.sec s.frameSec).chIdx + j'.toNat) % s.cfg.sectionLen ≠ o) →
      Memory.read t.fb (s.cfg.sectionStart s.frameSec + o) = s.cfg.pal j) ∧
    (∀ o < s.cfg.sectionLen, (∀ j : BitVec 3, ((s.sec s.frameSec).chIdx + j.toNat) % s.cfg.sectionLen ≠ o) →
      Memory.read t.fb (s.cfg.sectionStart s.frameSec + o) = Color.black) ∧
    (∀ i, ¬ InSection s.cfg s.frameSec i → Memory.read t.fb i = Memory.read s.fb i) ∧
    t = { s with
      fb := t.fb
      secs := s.secs.set s.frameSec { s.sec s.frameSec with chIdx := ((s.sec s.frameSec).chIdx + 1) % s.cfg.sectionLen } }

/-! ### Random kernels -/

/-- 40_color_units.md R136, R137, R140, 00_scope.md R13: a draw lies in its domain and can be any element of it; a random colour
takes one draw from `{0..7}` when restricted and three from `{0..255}`, red, green, blue, otherwise; a palette colour takes one
draw from `{0..7}` whatever `RESTRICT_RANDOM` says (that a raw value is reduced to its domain is the model's, log 6). -/
def Obligations.RandomColoursTakeTheirDraws : Prop :=
  (∀ (n : Nat) (p : RandomPort), 0 < n → (p.draw n).1 < n) ∧
  (∀ n v : Nat, v < n → ∃ p : RandomPort, (p.draw n).1 = v) ∧
  (∀ (c : Config) (p : RandomPort), c.restrictRandom = true →
    randomColor c p = (c.pal (BitVec.ofNat 3 (p.raw 0 % 8)), p.after 1)) ∧
  (∀ (c : Config) (p : RandomPort), c.restrictRandom = false → randomColor c p =
    (⟨BitVec.ofNat 8 (p.raw 0 % 256), BitVec.ofNat 8 (p.raw 1 % 256), BitVec.ofNat 8 (p.raw 2 % 256)⟩, p.after 3)) ∧
  (∀ (c : Config) (p : RandomPort), paletteColor c p = (c.pal (BitVec.ofNat 3 (p.raw 0 % 8)), p.after 1))

/-- 43_random_kernels.md R200: on a recolour frame RandomAll gives each pixel of its section an independent palette colour, the
draws in ascending order; otherwise it writes no pixel and draws nothing; the counter advances modulo P; nothing else changes (a raw
value of the source is reduced to the domain of its draw: the model's, log 6). -/
def Obligations.RandomAllRecoloursWhenItsCounterIsZero : Prop :=
  ∀ s : State, s.Canonical → ∃ t, exec .modeRandomAll s = .next t ∧
    ((s.sec s.frameSec).raCnt = 0 →
      (∀ i, Memory.read t.fb i =
        if InSection s.cfg s.frameSec i then
          s.cfg.pal (BitVec.ofNat 3 (s.rand.raw (i - s.cfg.sectionStart s.frameSec) % 8))
        else Memory.read s.fb i) ∧
      t.rand = s.rand.after s.cfg.sectionLen) ∧
    ((s.sec s.frameSec).raCnt ≠ 0 → t.fb = s.fb ∧ t.rand = s.rand) ∧
    t = { s with
      fb := t.fb
      rand := t.rand
      secs := s.secs.set s.frameSec { s.sec s.frameSec with
        raCnt := ((s.sec s.frameSec).raCnt + 1) % ((200 + s.cfg.frameDelayMs - 1) / s.cfg.frameDelayMs) } }

/-- 43_random_kernels.md R201: of every P consecutive frames of its own RandomAll recolours on exactly one: that frame starts with the
counter at 0, takes L draws and gives every pixel of the section its palette colour; each other frame of them starts with
another counter, draws nothing and writes nothing (a raw value of the source is reduced to the domain of its draw: the model's,
log 6). -/
def Obligations.RandomAllRecoloursOncePerPeriod : Prop :=
  ∀ (c : Config) (k : Fin 4) (v : KernelView), Memory.wf c.pixels v.fb = true → v.sec.raCnt < c.recolourPeriod →
    ∃ n < c.recolourPeriod,
      ((kernelRandomAll c k)^[n] v).sec.raCnt = 0 ∧
      ((kernelRandomAll c k)^[n + 1] v).rand = ((kernelRandomAll c k)^[n] v).rand.after c.sectionLen ∧
      (∀ o < c.sectionLen, readSection c k ((kernelRandomAll c k)^[n + 1] v).fb o =
        c.pal (BitVec.ofNat 3 (((kernelRandomAll c k)^[n] v).rand.raw o % 8))) ∧
      ∀ m < c.recolourPeriod, m ≠ n →
        ((kernelRandomAll c k)^[m] v).sec.raCnt ≠ 0 ∧
        ((kernelRandomAll c k)^[m + 1] v).rand = ((kernelRandomAll c k)^[m] v).rand ∧
        ((kernelRandomAll c k)^[m + 1] v).fb = ((kernelRandomAll c k)^[m] v).fb

/-- 43_random_kernels.md R204: RandomOne recolours the one pixel it draws with a random colour, records it, and changes nothing else (a raw
value of the source is reduced to the domain of its draw: the model's, log 6). -/
def Obligations.RandomOneRecoloursOnePixel : Prop :=
  ∀ s : State, s.Canonical → 0 < s.cfg.sectionLen → ∃ t, exec .modeRandomOne s = .next t ∧
    (t.sec s.frameSec).roLast = s.rand.raw 0 % s.cfg.sectionLen ∧
    (∀ i, Memory.read t.fb i =
      if i = s.cfg.sectionStart s.frameSec + (t.sec s.frameSec).roLast then drawnColor s.cfg s.rand 1
      else Memory.read s.fb i) ∧
    t = { s with
      fb := t.fb
      rand := s.rand.after (1 + s.cfg.colorDraws)
      secs := s.secs.set s.frameSec { s.sec s.frameSec with roLast := (t.sec s.frameSec).roLast } }

/-- 43_random_kernels.md R206, R207: Raindrops sets one drawn pixel to a random colour, shows every stored colour before this
frame's decay, then every stored channel decays by 10, clamped at 0; nothing else changes (a raw value of the source is reduced to
the domain of its draw: the model's, log 6). -/
def Obligations.RaindropsShowsThenDecays : Prop :=
  ∀ s : State, s.Canonical → 0 < s.cfg.sectionLen → (s.sec s.frameSec).rdCol.length = s.cfg.sectionLen →
    ∃ (t : State) (shown : Nat → Color), exec .modeRaindrops s = .next t ∧
    (∀ o, shown o = if o = s.rand.raw 0 % s.cfg.sectionLen then drawnColor s.cfg s.rand 1
      else (s.sec s.frameSec).rdCol.getD o Color.black) ∧
    (∀ i, Memory.read t.fb i =
      if InSection s.cfg s.frameSec i then shown (i - s.cfg.sectionStart s.frameSec) else Memory.read s.fb i) ∧
    (t.sec s.frameSec).rdCol.length = s.cfg.sectionLen ∧
    (∀ o < s.cfg.sectionLen,
      ((t.sec s.frameSec).rdCol.getD o Color.black).r.toNat = (shown o).r.toNat - 10 ∧
      ((t.sec s.frameSec).rdCol.getD o Color.black).g.toNat = (shown o).g.toNat - 10 ∧
      ((t.sec s.frameSec).rdCol.getD o Color.black).b.toNat = (shown o).b.toNat - 10) ∧
    t = { s with
      fb := t.fb
      rand := s.rand.after (1 + s.cfg.colorDraws)
      secs := s.secs.set s.frameSec { s.sec s.frameSec with rdCol := (t.sec s.frameSec).rdCol } }

/-- 43_random_kernels.md R212, R216: Fireflies advances, then spawns, then shows every pixel of its section at its stored colour
scaled by its brightness over 255; nothing else changes. -/
def Obligations.FirefliesAdvancesSpawnsShows : Prop :=
  ∀ s : State, s.Canonical → (s.sec s.frameSec).FirefliesInv s.cfg.sectionLen →
    ∃ (t : State) (x : SectionRegs) (p : RandomPort), exec .modeFireflies s = .next t ∧
    (x, p) = ffSpawn s.cfg (ffAdvance (s.sec s.frameSec)) s.rand ∧
    (∀ i, Memory.read t.fb i =
      if InSection s.cfg s.frameSec i then
        applyBrightness (x.ffCol.getD (i - s.cfg.sectionStart s.frameSec) Color.black)
          (x.ffBri.getD (i - s.cfg.sectionStart s.frameSec) 0).toNat 255
      else Memory.read s.fb i) ∧
    x = { s.sec s.frameSec with
      ffCol := x.ffCol, ffPhase := x.ffPhase, ffBri := x.ffBri, ffActive := x.ffActive } ∧
    t = { s with fb := t.fb, rand := p, secs := s.secs.set s.frameSec x }

/-- 43_random_kernels.md R213: an active pixel that fades in gains 50, clamped at 255 where it turns to fade-out; another active
pixel loses 30, clamped at 0 where it turns off and leaves the active set; every other pixel keeps its state. -/
def Obligations.FirefliesAdvanceEachActivePixel : Prop :=
  ∀ (len : Nat) (x : SectionRegs), x.FirefliesInv len →
    ffAdvance x = { x with
      ffPhase := (ffAdvance x).ffPhase, ffBri := (ffAdvance x).ffBri, ffActive := (ffAdvance x).ffActive } ∧
    ∀ o < len,
      (o ∉ x.ffActive → (ffAdvance x).ffPhase.getD o .off = x.ffPhase.getD o .off ∧
        (ffAdvance x).ffBri.getD o 0 = x.ffBri.getD o 0 ∧ o ∉ (ffAdvance x).ffActive) ∧
      (o ∈ x.ffActive → x.ffPhase.getD o .off = .fadeIn →
        ((ffAdvance x).ffBri.getD o 0).toNat = min ((x.ffBri.getD o 0).toNat + 50) 255 ∧
        (ffAdvance x).ffPhase.getD o .off = (if (ffAdvance x).ffBri.getD o 0 = 255 then .fadeOut else .fadeIn) ∧
        o ∈ (ffAdvance x).ffActive) ∧
      (o ∈ x.ffActive → x.ffPhase.getD o .off ≠ .fadeIn →
        ((ffAdvance x).ffBri.getD o 0).toNat = (x.ffBri.getD o 0).toNat - 30 ∧
        (ffAdvance x).ffPhase.getD o .off = (if (ffAdvance x).ffBri.getD o 0 = 0 then .off else .fadeOut) ∧
        (o ∈ (ffAdvance x).ffActive ↔ (ffAdvance x).ffBri.getD o 0 ≠ 0))

/-- 43_random_kernels.md R214: the brightness of one firefly after its spawn, frame by frame, and the frame it turns off in. -/
def Obligations.FireflyLivesFifteenFrames : Prop :=
  (List.range 15).map (fun n => ((fun q : Phase × BitVec 8 => ffAdvancePixel q.1 q.2)^[n + 1] (.fadeIn, 0)).2.toNat) =
    [50, 100, 150, 200, 250, 255, 225, 195, 165, 135, 105, 75, 45, 15, 0] ∧
  ((fun q : Phase × BitVec 8 => ffAdvancePixel q.1 q.2)^[6] (.fadeIn, 0)).1 = .fadeOut ∧
  ((fun q : Phase × BitVec 8 => ffAdvancePixel q.1 q.2)^[15] (.fadeIn, 0)).1 = .off

/-- 43_random_kernels.md R215: with three active pixels nothing spawns and nothing is drawn; with fewer, one draw `go`; only if it
is 1 and a pixel is off, `j` picks an off pixel, which takes a random colour, phase fade-in and brightness 0 and joins the active set (a
raw value of the source is reduced to the domain of its draw: the model's, log 6). -/
def Obligations.FirefliesSpawnAtMostOne : Prop :=
  ∀ (c : Config) (x : SectionRegs) (p : RandomPort), x.FirefliesInv c.sectionLen →
    (3 ≤ x.ffActive.length → ffSpawn c x p = (x, p)) ∧
    (x.ffActive.length < 3 → (p.raw 0 % 2 ≠ 1 ∨ x.ffActive.length = c.sectionLen) → ffSpawn c x p = (x, p.after 1)) ∧
    (x.ffActive.length < 3 → p.raw 0 % 2 = 1 → x.ffActive.length < c.sectionLen →
      ∃ (y : SectionRegs) (k : Nat), ffSpawn c x p = (y, p.after (2 + c.colorDraws)) ∧ k < c.sectionLen ∧
        ((List.range c.sectionLen).filter (fun o => decide (x.ffPhase.getD o .off = .off)))[p.raw 1 % (c.sectionLen - x.ffActive.length)]? =
          some k ∧
        y = { x with
          ffCol := x.ffCol.set k (drawnColor c p 2), ffPhase := x.ffPhase.set k .fadeIn, ffBri := x.ffBri.set k 0
          ffActive := y.ffActive } ∧
        ∀ o, o ∈ y.ffActive ↔ (o = k ∨ o ∈ x.ffActive))

/-- 43_random_kernels.md R221: a section that is all black is seeded, each pixel with its own random colour as shown colour and
target and no fade pending, the draws in ascending order; any other section is left alone (a raw value of the source is reduced to
the domain of its draw: the model's, log 6). -/
def Obligations.TwinkleSeedsABlackSection : Prop :=
  ∀ (c : Config) (k : Fin 4) (v : KernelView), Memory.wf c.pixels v.fb = true →
    ((∃ o < c.sectionLen, readSection c k v.fb o ≠ Color.black) → rfSeedIfBlack c k v = v) ∧
    ((∀ o < c.sectionLen, readSection c k v.fb o = Color.black) →
      (rfSeedIfBlack c k v).sec = { v.sec with
        rfTgt := (rfSeedIfBlack c k v).sec.rfTgt, rfFs := List.replicate c.sectionLen 0 } ∧
      (rfSeedIfBlack c k v).sec.rfTgt.length = c.sectionLen ∧
      (∀ o < c.sectionLen,
        (rfSeedIfBlack c k v).sec.rfTgt.getD o Color.black = drawnColor c v.rand (o * c.colorDraws) ∧
        readSection c k (rfSeedIfBlack c k v).fb o = drawnColor c v.rand (o * c.colorDraws)) ∧
      (∀ i, ¬ InSection c k i → Memory.read (rfSeedIfBlack c k v).fb i = Memory.read v.fb i) ∧
      (rfSeedIfBlack c k v).rand = v.rand.after (c.sectionLen * c.colorDraws))

/-- 43_random_kernels.md R222: with `E` the pixels whose counter is 0, `m` is `min(3, |E|)`, or a draw from `0..min(3, |E|)` when
RF_PICK_EXACT is false. Pick `n` of the `m` takes the pixel that its own draw `j` selects from `E` without the pixels picked before
it, gives it a counter of 20 and the random colour of its own next draws as target; every other pixel keeps both, exactly these
draws are taken, and the framebuffer is not written (a raw value of the source is reduced to the domain of its draw: the model's,
log 6). -/
def Obligations.TwinklePicksDistinctEligiblePixels : Prop :=
  ∀ (c : Config) (v : KernelView), v.sec.FadeInv c.sectionLen → ∃ picked : List Nat, picked.Nodup ∧
    picked.length =
      (if c.rfPickExact then min 3 (eligibleWithout c.sectionLen v.sec []).length
       else v.rand.raw 0 % (min 3 (eligibleWithout c.sectionLen v.sec []).length + 1)) ∧
    (∀ n k : Nat, picked[n]? = some k →
      (eligibleWithout c.sectionLen v.sec (picked.take n))[
        v.rand.raw (pickStart c n) % (eligibleWithout c.sectionLen v.sec (picked.take n)).length]? = some k ∧
      (rfPick c v).sec.rfFs.getD k 0 = 20 ∧
      (rfPick c v).sec.rfTgt.getD k Color.black = drawnColor c v.rand (pickStart c n + 1)) ∧
    (∀ o, o ∉ picked → (rfPick c v).sec.rfFs.getD o 0 = v.sec.rfFs.getD o 0 ∧
      (rfPick c v).sec.rfTgt.getD o Color.black = v.sec.rfTgt.getD o Color.black) ∧
    (rfPick c v).rand = v.rand.after (pickStart c picked.length) ∧
    (rfPick c v).fb = v.fb ∧
    (rfPick c v).sec = { v.sec with rfTgt := (rfPick c v).sec.rfTgt, rfFs := (rfPick c v).sec.rfFs }

/-- 43_random_kernels.md R220, R224: Twinkle seeds, picks, then updates: a pixel with a pending fade counts down and moves from the
colour it shows by `(20 - counter)/20` of the way to its target, another shows its target; nothing else changes. That the pick and the update also follow a seed whose colours are all
BLACK is the model's choice against the last clause of R226 (log 21). -/
def Obligations.TwinkleFadesTowardTheTargets : Prop :=
  ∀ s : State, s.Canonical → (s.sec s.frameSec).FadeInv s.cfg.sectionLen →
    ∃ (t : State) (v : KernelView), exec .modeTwinkle s = .next t ∧
    v = rfPick s.cfg (rfSeedIfBlack s.cfg s.frameSec ⟨s.sec s.frameSec, s.fb, s.rand⟩) ∧
    (∀ o < s.cfg.sectionLen, Memory.read t.fb (s.cfg.sectionStart s.frameSec + o) =
      if v.sec.rfFs.getD o 0 = 0 then v.sec.rfTgt.getD o Color.black
      else lerp (Memory.read v.fb (s.cfg.sectionStart s.frameSec + o)) (v.sec.rfTgt.getD o Color.black)
        (20 - (((v.sec.rfFs.getD o 0).toNat : Int) - 1)) 20) ∧
    (∀ i, ¬ InSection s.cfg s.frameSec i → Memory.read t.fb i = Memory.read s.fb i) ∧
    (t.sec s.frameSec).rfTgt = v.sec.rfTgt ∧
    (∀ o, ((t.sec s.frameSec).rfFs.getD o 0).toNat = (v.sec.rfFs.getD o 0).toNat - 1) ∧
    t = { s with
      fb := t.fb, rand := v.rand
      secs := s.secs.set s.frameSec { s.sec s.frameSec with
        rfTgt := (t.sec s.frameSec).rfTgt, rfFs := (t.sec s.frameSec).rfFs } }

/-- 43_random_kernels.md R225: a pixel picked in a frame of Twinkle shows its target exactly after that frame and the next 19, and in
each of them every channel moves toward the target, never past it, if no frame of them seeds the section (a seed is the
one other write of Twinkle; that nothing else writes is the iteration of this kernel alone). -/
def Obligations.RandomFadeReachesItsTargetInTwentyFrames : Prop :=
  ∀ (c : Config) (k : Fin 4) (v : KernelView) (o : Nat) (target : Color), Memory.wf c.pixels v.fb = true → o < c.sectionLen →
    (rfPick c v).sec.rfFs.getD o 0 = 20 → target = (rfPick c v).sec.rfTgt.getD o Color.black →
    (∀ n < 20, ∃ i < c.sectionLen, readSection c k ((kernelTwinkle c k)^[n] v).fb i ≠ Color.black) →
    readSection c k ((kernelTwinkle c k)^[20] v).fb o = target ∧
    (∀ n < 20, (((kernelTwinkle c k)^[n + 1] v).sec.rfFs.getD o 0).toNat = 19 - n) ∧
    ∀ n < 20,
      Toward (readSection c k ((kernelTwinkle c k)^[n] v).fb o).r (readSection c k ((kernelTwinkle c k)^[n + 1] v).fb o).r target.r ∧
      Toward (readSection c k ((kernelTwinkle c k)^[n] v).fb o).g (readSection c k ((kernelTwinkle c k)^[n + 1] v).fb o).g target.g ∧
      Toward (readSection c k ((kernelTwinkle c k)^[n] v).fb o).b (readSection c k ((kernelTwinkle c k)^[n + 1] v).fb o).b target.b

/-! ### Drop and stack -/

/-- 44_drop_and_stack.md R253: the fill frame paints the section with the background and starts at the top; another frame puts the
drop's previous place back to the background, paints the drop, and lets it fall, land (the next pass is one shorter), or end the
cycle; nothing else changes. That a falling frame keeps every other entry, after a
clear too, is the model's choice against the last sentence of R362 (log 19). -/
def Obligations.DropAndStackFillsFallsAndLands : Prop :=
  ∀ (s : State) (x : SectionRegs) (len : Nat), s.Canonical → x = s.sec s.frameSec → len = s.cfg.sectionLen → 0 < len →
    x.StackInv len → ∃ (t : State) (y : SectionRegs), exec .modeDropAndStack s = .next t ∧ y = t.sec s.frameSec ∧
    (x.dsPos = -1 →
      (∀ i, Memory.read t.fb i =
        if InSection s.cfg s.frameSec i then s.cfg.dsPal (x.dsCi + 1) else Memory.read s.fb i) ∧
      y.dsPos = (len : Int) - 1 ∧ y.dsRun = len ∧ y.dsCi = x.dsCi) ∧
    (x.dsPos ≠ -1 →
      (∀ i : Nat, Memory.read t.fb i =
        if (i : Int) = (s.cfg.sectionStart s.frameSec : Int) + x.dsPos then s.cfg.dsPal x.dsCi
        else if (i : Int) = (s.cfg.sectionStart s.frameSec : Int) + x.dsPos + 1 ∧ x.dsPos ≠ (len : Int) - 1 then
          s.cfg.dsPal (x.dsCi + 1)
        else Memory.read s.fb i) ∧
      (x.dsPos ≠ (len : Int) - (x.dsRun : Int) → y.dsPos = x.dsPos - 1 ∧ y.dsRun = x.dsRun ∧ y.dsCi = x.dsCi) ∧
      (x.dsPos = (len : Int) - (x.dsRun : Int) → y.dsRun = x.dsRun - 1 ∧
        (1 < y.dsRun → y.dsPos = (len : Int) - 1 ∧ y.dsCi = x.dsCi) ∧
        (y.dsRun ≤ 1 → y.dsPos = -1 ∧ y.dsCi = x.dsCi + 1))) ∧
    t = { s with
      fb := t.fb
      secs := s.secs.set s.frameSec { x with dsCi := y.dsCi, dsPos := y.dsPos, dsRun := y.dsRun } }

/-- 44_drop_and_stack.md R255: from `ds_pos = -1` one colour cycle takes `L(L+1)/2` frames of the kernel for `L >= 2` (2 frames for
`L = 1`), is not over before, and ends with the colours swapped; then offsets `0..L-2` hold the drop colour and offset `L-1` the
old background (for `L = 1` the drop colour). -/
def Obligations.DropAndStackCycleLength : Prop :=
  ∀ (c : Config) (k : Fin 4) (v : KernelView) (n : Nat), Memory.wf c.pixels v.fb = true → v.sec.dsPos = -1 →
    ((2 ≤ c.sectionLen ∧ n = c.sectionLen * (c.sectionLen + 1) / 2) ∨ (c.sectionLen = 1 ∧ n = 2)) →
    ((kernelDropAndStack c k)^[n] v).sec.dsPos = -1 ∧
    ((kernelDropAndStack c k)^[n] v).sec.dsCi = v.sec.dsCi + 1 ∧
    (∀ m, 0 < m → m < n → ((kernelDropAndStack c k)^[m] v).sec.dsPos ≠ -1) ∧
    ∀ o < c.sectionLen, readSection c k ((kernelDropAndStack c k)^[n] v).fb o =
      if 2 ≤ c.sectionLen ∧ o = c.sectionLen - 1 then c.dsPal (v.sec.dsCi + 1) else c.dsPal v.sec.dsCi

/-! ### Colour units -/

/-- 40_color_units.md R132: each channel is `floor(channel * num / den)`, never more than the channel; `num = den` is the identity
and `num = 0` gives black. -/
def Obligations.BrightnessScalerFloorsEachChannel : Prop :=
  ∀ (x : Color) (num den : Nat), 1 ≤ den → num ≤ den →
    (applyBrightness x num den).r.toNat = x.r.toNat * num / den ∧
    (applyBrightness x num den).g.toNat = x.g.toNat * num / den ∧
    (applyBrightness x num den).b.toNat = x.b.toNat * num / den ∧
    (applyBrightness x num den).r ≤ x.r ∧ (applyBrightness x num den).g ≤ x.g ∧ (applyBrightness x num den).b ≤ x.b ∧
    (num = den → applyBrightness x num den = x) ∧ (num = 0 → applyBrightness x num den = Color.black)

/-- 40_color_units.md R134, R135: the three bands of the wheel, and that neighbouring positions differ by at most 3 per channel. -/
def Obligations.WheelHasThreeContinuousBands : Prop :=
  (∀ pos < 256,
    ((wheel pos).r.toNat, (wheel pos).g.toNat, (wheel pos).b.toNat) =
      if pos < 85 then (3 * pos, 255 - 3 * pos, 0)
      else if pos < 170 then (255 - 3 * (pos - 85), 0, 3 * (pos - 85))
      else (0, 3 * (pos - 170), 255 - 3 * (pos - 170))) ∧
  (∀ pos < 255,
    (wheel pos).r.toNat ≤ (wheel (pos + 1)).r.toNat + 3 ∧ (wheel (pos + 1)).r.toNat ≤ (wheel pos).r.toNat + 3 ∧
    (wheel pos).g.toNat ≤ (wheel (pos + 1)).g.toNat + 3 ∧ (wheel (pos + 1)).g.toNat ≤ (wheel pos).g.toNat + 3 ∧
    (wheel pos).b.toNat ≤ (wheel (pos + 1)).b.toNat + 3 ∧ (wheel (pos + 1)).b.toNat ≤ (wheel pos).b.toNat + 3) ∧
  wheel 255 = wheel 0

/-- 46_frame_mux_writer.md R304, 30_encoding.md R110: where each channel lies in the pixel word, for both layouts. -/
def Obligations.PackPlacesTheChannels : Prop :=
  ∀ x : Color,
    (pack .grbMsb x).toNat = x.g.toNat * 2 ^ 24 + x.r.toNat * 2 ^ 16 + x.b.toNat * 2 ^ 8 ∧
    (pack .rgbLsb x).toNat = x.r.toNat * 2 ^ 16 + x.g.toNat * 2 ^ 8 + x.b.toNat ∧
    (pack .grbMsb x).extractLsb' 24 8 = x.g ∧ (pack .grbMsb x).extractLsb' 16 8 = x.r ∧
    (pack .grbMsb x).extractLsb' 8 8 = x.b ∧ (pack .grbMsb x).extractLsb' 0 8 = 0 ∧
    (pack .rgbLsb x).extractLsb' 24 8 = 0 ∧ (pack .rgbLsb x).extractLsb' 16 8 = x.r ∧
    (pack .rgbLsb x).extractLsb' 8 8 = x.g ∧ (pack .rgbLsb x).extractLsb' 0 8 = x.b

/-- 43_random_kernels.md R223: the interpolation rounds toward negative infinity, lies between its two ends in every channel, and
is the target when `num = den`. -/
def Obligations.InterpolationStaysBetweenItsEnds : Prop :=
  ∀ (cur tgt : Color) (num den : Nat), 1 ≤ den → num ≤ den →
    ((lerp cur tgt num den).r.toNat : Int) = cur.r.toNat + Int.fdiv (((tgt.r.toNat : Int) - cur.r.toNat) * num) den ∧
    ((lerp cur tgt num den).g.toNat : Int) = cur.g.toNat + Int.fdiv (((tgt.g.toNat : Int) - cur.g.toNat) * num) den ∧
    ((lerp cur tgt num den).b.toNat : Int) = cur.b.toNat + Int.fdiv (((tgt.b.toNat : Int) - cur.b.toNat) * num) den ∧
    Toward cur.r (lerp cur tgt num den).r tgt.r ∧ Toward cur.g (lerp cur tgt num den).g tgt.g ∧
    Toward cur.b (lerp cur tgt num den).b tgt.b ∧ (num = den → lerp cur tgt num den = tgt)

/-! ### Register widths -/

/-- 10_state.md R53: the widths of the summary hold every legal value: a running block that meets the invariant keeps every register
within its width; after every reset, a rejecting one too, each register is within its width (what a rejection leaves is a free value of
that width, log 5; the registers themselves are naturals, log 20). -/
def Obligations.RegistersFitTheirWidths : Prop :=
  (∀ s : State, s.Good → s.Fits) ∧
  (∀ (s : State) (c : Config), s.rst = some c → ∃ t, step s = .next t ∧ t.cfg = c ∧ t.Fits) ∧
  (∀ c : Config, c.legal = true →
    (∀ w, c.sectionLen - 1 < 2 ^ w → 1 ≤ w → c.indexWidth ≤ w) ∧
    (∀ w, c.recolourPeriod ≤ 2 ^ w → 1 ≤ w → c.counterWidth ≤ w) ∧
    c.sectionLen - 1 < 2 ^ c.indexWidth ∧ c.recolourPeriod ≤ 2 ^ c.counterWidth ∧ 1 ≤ c.indexWidth ∧ 1 ≤ c.counterWidth)
end

