-- ==== Sys2Proof/Laws/Memory.lean ====
section
/-! SUPPORT. The laws of the framebuffer: reads after writes, the canonical form, and that equal reads make equal framebuffers. -/

namespace Sys2Proof.Machine

theorem Memory.unlisted_eq : Memory.unlisted = Color.black := rfl

@[simp] theorem Memory.read_nil (i : Nat) : Memory.read [] i = Color.black := rfl

theorem Memory.risingFrom_mono {lo lo' : Nat} {fb : FrameBuffer} (h : lo ≤ lo')
    (hr : Memory.risingFrom lo' fb = true) : Memory.risingFrom lo fb = true := by
  cases fb with
  | nil => rfl
  | cons p rest =>
    obtain ⟨j, d⟩ := p
    simp only [Memory.risingFrom, Bool.and_eq_true, decide_eq_true_eq] at hr ⊢
    exact ⟨by omega, hr.2⟩

/-- An index below every listed one holds `BLACK`. -/
theorem Memory.read_of_lt {lo i : Nat} {fb : FrameBuffer} (hr : Memory.risingFrom lo fb = true) (hi : i < lo) :
    Memory.read fb i = Color.black := by
  induction fb generalizing lo with
  | nil => rfl
  | cons p rest ih =>
    obtain ⟨j, d⟩ := p
    simp only [Memory.risingFrom, Bool.and_eq_true, decide_eq_true_eq] at hr
    rw [Memory.read, if_neg (by omega)]
    exact ih hr.2 (by omega)

/-- A read after a write: the value written at its index, the old value at every other (00_scope.md R12, 20_memory.md R80). -/
theorem Memory.read_write {lo i : Nat} {fb : FrameBuffer} (hr : Memory.risingFrom lo fb = true) (c : Color) (j : Nat) :
    Memory.read (Memory.write fb i c) j = if j = i then c else Memory.read fb j := by
  induction fb generalizing lo with
  | nil => by_cases hc : c = Memory.unlisted <;> by_cases hj : j = i <;> simp_all [Memory.write, Memory.read, Memory.unlisted]
  | cons p rest ih =>
    obtain ⟨m, d⟩ := p
    simp only [Memory.risingFrom, Bool.and_eq_true, decide_eq_true_eq] at hr
    have below : ∀ x, x < m + 1 → Memory.read rest x = Color.black := fun x hx => Memory.read_of_lt hr.2 hx
    unfold Memory.write
    split
    · split
      · by_cases hj : j = i
        · subst hj; simp [Memory.read, show j ≠ m by omega, below j (by omega), *, Memory.unlisted]
        · simp [hj]
      · by_cases hj : j = i <;> simp [hj, Memory.read]
    · split
      · subst i
        split
        · by_cases hj : j = m
          · subst hj; simp [below j (by omega), *, Memory.unlisted]
          · simp [hj, Memory.read]
        · by_cases hj : j = m <;> simp [hj, Memory.read]
      · by_cases hj : j = m
        · simp [hj, Memory.read, show ¬ m = i by omega]
        · simp [hj, Memory.read, ih hr.2]

theorem Memory.risingFrom_write {lo i : Nat} {fb : FrameBuffer} (hr : Memory.risingFrom lo fb = true) (hi : lo ≤ i)
    (c : Color) : Memory.risingFrom lo (Memory.write fb i c) = true := by
  induction fb generalizing lo with
  | nil => unfold Memory.write; split <;> simp [Memory.risingFrom, hi]
  | cons p rest ih =>
    obtain ⟨m, d⟩ := p
    simp only [Memory.risingFrom, Bool.and_eq_true, decide_eq_true_eq] at hr
    unfold Memory.write
    split
    · split <;> simp only [Memory.risingFrom, Bool.and_eq_true, decide_eq_true_eq]
      · exact hr
      · exact ⟨hi, by omega, hr.2⟩
    · split
      · subst i
        split
        · exact Memory.risingFrom_mono (by omega) hr.2
        · simp only [Memory.risingFrom, Bool.and_eq_true, decide_eq_true_eq]; exact hr
      · simp only [Memory.risingFrom, Bool.and_eq_true, decide_eq_true_eq]
        exact ⟨hr.1, ih hr.2 (by omega)⟩

theorem Memory.mem_write {i : Nat} {fb : FrameBuffer} {c : Color} {p : PixelCell} (h : p ∈ Memory.write fb i c) :
    p ∈ fb ∨ (p = (i, c) ∧ c ≠ Memory.unlisted) := by
  induction fb with
  | nil =>
    unfold Memory.write at h
    split at h <;> simp_all
  | cons q rest ih =>
    obtain ⟨m, d⟩ := q
    unfold Memory.write at h
    split at h
    · split at h
      · exact .inl h
      · rcases List.mem_cons.mp h with rfl | h
        · exact .inr ⟨rfl, by assumption⟩
        · exact .inl h
    · split at h
      · split at h
        · exact .inl (List.mem_cons_of_mem _ h)
        · rcases List.mem_cons.mp h with rfl | h
          · exact .inr ⟨rfl, by assumption⟩
          · exact .inl (List.mem_cons_of_mem _ h)
      · rcases List.mem_cons.mp h with rfl | h
        · exact .inl (List.mem_cons_self ..)
        · rcases ih h with h | h
          · exact .inl (List.mem_cons_of_mem _ h)
          · exact .inr h

theorem Memory.wf_iff {n : Nat} {fb : FrameBuffer} : Memory.wf n fb = true ↔
    Memory.risingFrom 0 fb = true ∧ ∀ p ∈ fb, p.1 < n ∧ p.2 ≠ Color.black := by
  simp only [Memory.wf, Bool.and_eq_true, List.all_eq_true, decide_eq_true_eq]
  exact Iff.rfl

@[simp] theorem Memory.wf_nil (n : Nat) : Memory.wf n [] = true := rfl

/-- A write inside the framebuffer keeps the canonical form. -/
theorem Memory.wf_write {n i : Nat} {fb : FrameBuffer} (h : Memory.wf n fb = true) (hi : i < n) (c : Color) :
    Memory.wf n (Memory.write fb i c) = true := by
  rw [Memory.wf_iff] at h ⊢
  refine ⟨Memory.risingFrom_write h.1 (Nat.zero_le _) c, fun p hp => ?_⟩
  rcases Memory.mem_write hp with hp | ⟨rfl, hc⟩
  · exact h.2 p hp
  · exact ⟨hi, hc⟩

/-- An index outside the framebuffer holds `BLACK` in the canonical form. -/
theorem Memory.read_out {n i : Nat} {fb : FrameBuffer} (h : Memory.wf n fb = true) (hi : n ≤ i) :
    Memory.read fb i = Color.black := by
  have h2 := (Memory.wf_iff.mp h).2
  clear h
  induction fb with
  | nil => rfl
  | cons p rest ih =>
    obtain ⟨m, d⟩ := p
    have hm := (h2 (m, d) (List.mem_cons_self ..)).1
    rw [Memory.read, if_neg (by simp at hm; omega)]
    exact ih fun q hq => h2 q (List.mem_cons_of_mem _ hq)

/-- Canonical lists that read the same are the same list. -/
theorem Memory.ext_rising {lo : Nat} {a b : FrameBuffer} (ha : Memory.risingFrom lo a = true)
    (hb : Memory.risingFrom lo b = true) (na : ∀ p ∈ a, p.2 ≠ Color.black) (nb : ∀ p ∈ b, p.2 ≠ Color.black)
    (h : ∀ i, Memory.read a i = Memory.read b i) : a = b := by
  induction a generalizing lo b with
  | nil =>
    cases b with
    | nil => rfl
    | cons q rest =>
      obtain ⟨m, d⟩ := q
      have hm := h m
      simp only [Memory.read, if_true] at hm
      exact absurd hm.symm (nb (m, d) (List.mem_cons_self ..))
  | cons p ra ih =>
    obtain ⟨m, d⟩ := p
    simp only [Memory.risingFrom, Bool.and_eq_true, decide_eq_true_eq] at ha
    have hd := na (m, d) (List.mem_cons_self ..)
    cases b with
    | nil =>
      have hm := h m
      simp only [Memory.read, if_true] at hm
      exact absurd hm hd
    | cons q rb =>
      obtain ⟨m', d'⟩ := q
      simp only [Memory.risingFrom, Bool.and_eq_true, decide_eq_true_eq] at hb
      have hd' := nb (m', d') (List.mem_cons_self ..)
      have hm : m = m' := by
        rcases Nat.lt_trichotomy m m' with hlt | heq | hgt
        · have e := h m
          rw [Memory.read, if_pos rfl, Memory.read, if_neg (by omega), Memory.read_of_lt hb.2 (by omega)] at e
          exact absurd e hd
        · exact heq
        · have e := h m'
          rw [Memory.read, if_neg (by omega), Memory.read_of_lt ha.2 (by omega), Memory.read, if_pos rfl] at e
          exact absurd e.symm hd'
      subst hm
      have e := h m
      simp only [Memory.read, if_true] at e
      subst e
      rw [ih ha.2 hb.2 (fun p hp => na p (List.mem_cons_of_mem _ hp)) (fun p hp => nb p (List.mem_cons_of_mem _ hp))]
      intro i
      by_cases hi : i = m
      · rw [hi, Memory.read_of_lt ha.2 (by omega), Memory.read_of_lt hb.2 (by omega)]
      · have e := h i
        simpa only [Memory.read, if_neg hi] using e

/-- Two canonical framebuffers that read the same at every index are equal data. -/
theorem Memory.ext {n : Nat} {a b : FrameBuffer} (ha : Memory.wf n a = true) (hb : Memory.wf n b = true)
    (h : ∀ i < n, Memory.read a i = Memory.read b i) : a = b := by
  have ha' := Memory.wf_iff.mp ha
  have hb' := Memory.wf_iff.mp hb
  refine Memory.ext_rising ha'.1 hb'.1 (fun p hp => (ha'.2 p hp).2) (fun p hp => (hb'.2 p hp).2) fun i => ?_
  by_cases hi : i < n
  · exact h i hi
  · rw [Memory.read_out ha (by omega), Memory.read_out hb (by omega)]

/-! ### The bounds-checked write and the loops over it -/

theorem fbWrite_wf {n : Nat} {fb : FrameBuffer} (h : Memory.wf n fb = true) (i : Nat) (c : Color) :
    Memory.wf n (fbWrite n fb i c) = true := by
  unfold fbWrite
  split
  · exact Memory.wf_write h ‹_› c
  · exact h

theorem fbWriteInt_wf {n : Nat} {fb : FrameBuffer} (h : Memory.wf n fb = true) (i : Int) (c : Color) :
    Memory.wf n (fbWriteInt n fb i c) = true := by
  unfold fbWriteInt
  split
  · exact fbWrite_wf h _ c
  · exact h

/-- A write outside the framebuffer is dropped (20_memory.md R73). -/
theorem fbWrite_out {n i : Nat} (h : n ≤ i) (fb : FrameBuffer) (c : Color) : fbWrite n fb i c = fb :=
  if_neg (by omega)

theorem read_fbWrite {n : Nat} {fb : FrameBuffer} (h : Memory.wf n fb = true) (i : Nat) (c : Color) (j : Nat) :
    Memory.read (fbWrite n fb i c) j = if j = i ∧ i < n then c else Memory.read fb j := by
  unfold fbWrite
  split
  · rw [Memory.read_write (Memory.wf_iff.mp h).1]
    simp [*]
  · simp [*]

theorem read_fbWriteInt {n : Nat} {fb : FrameBuffer} (h : Memory.wf n fb = true) (i : Int) (c : Color) (j : Nat) :
    Memory.read (fbWriteInt n fb i c) j = if (j : Int) = i ∧ i < n then c else Memory.read fb j := by
  unfold fbWriteInt
  split
  · rw [read_fbWrite h]
    by_cases hj : (j : Int) = i ∧ i < n
    · rw [if_pos hj, if_pos ⟨by omega, by omega⟩]
    · rw [if_neg hj, if_neg (fun hh => hj ⟨by omega, by omega⟩)]
  · rw [if_neg (by omega)]

theorem fbFill_wf {n : Nat} {fb : FrameBuffer} (h : Memory.wf n fb = true) (start : Nat) (f : Nat → Color) (len : Nat) :
    Memory.wf n (fbFill n fb start f len) = true := by
  induction len with
  | zero => exact h
  | succ len ih => exact fbWrite_wf ih _ _

/-- Everything a fill does, read back: `f` inside its range, the old value elsewhere. -/
theorem read_fbFill {n : Nat} {fb : FrameBuffer} (h : Memory.wf n fb = true) (start : Nat) (f : Nat → Color) (len : Nat)
    (hn : start + len ≤ n) (j : Nat) :
    Memory.read (fbFill n fb start f len) j = if start ≤ j ∧ j < start + len then f (j - start) else Memory.read fb j := by
  induction len with
  | zero => rw [if_neg (by omega)]; rfl
  | succ len ih =>
    rw [fbFill, read_fbWrite (fbFill_wf h start f len), ih (by omega)]
    by_cases hj : j = start + len
    · subst hj
      rw [if_pos ⟨rfl, by omega⟩, if_pos ⟨by omega, by omega⟩, show start + len - start = len by omega]
    · rw [if_neg (fun hh => hj hh.1)]
      by_cases hr : start ≤ j ∧ j < start + len
      · rw [if_pos hr, if_pos ⟨hr.1, by omega⟩]
      · rw [if_neg hr, if_neg (fun hh => hr ⟨hh.1, by omega⟩)]

/-- `FBClear` of a canonical framebuffer leaves it with nothing listed: every entry `BLACK`. -/
theorem fbClear_eq_nil {n : Nat} {fb : FrameBuffer} (h : Memory.wf n fb = true) : fbClear n fb = [] := by
  refine Memory.ext (n := n) (fbFill_wf h _ _ _) rfl fun i hi => ?_
  rw [fbClear, read_fbFill h _ _ _ (by omega), if_pos ⟨by omega, by omega⟩, Memory.read_nil]

/-! ### Sections -/

/-- A section lies inside the framebuffer (00_scope.md R16). -/
theorem sectionEnd_le (c : Config) (k : Fin 4) : c.sectionStart k + c.sectionLen ≤ c.pixels := by
  have hk := k.isLt
  unfold Config.sectionStart
  have h4 : c.sectionLen * 4 ≤ c.pixels := Nat.div_mul_le_self _ _
  have : k.val * c.sectionLen + c.sectionLen ≤ 4 * c.sectionLen := by
    rw [← Nat.succ_mul]; exact Nat.mul_le_mul_right _ (by omega)
  omega

theorem fillSection_wf {c : Config} {fb : FrameBuffer} (h : Memory.wf c.pixels fb = true) (k : Fin 4) (f : Nat → Color) :
    Memory.wf c.pixels (fillSection c k fb f) = true := fbFill_wf h _ _ _

theorem read_fillSection {c : Config} {fb : FrameBuffer} (h : Memory.wf c.pixels fb = true) (k : Fin 4) (f : Nat → Color)
    (j : Nat) : Memory.read (fillSection c k fb f) j =
      if c.sectionStart k ≤ j ∧ j < c.sectionStart k + c.sectionLen then f (j - c.sectionStart k) else Memory.read fb j :=
  read_fbFill h _ _ _ (sectionEnd_le c k) j

end Sys2Proof.Machine
end

