-- ==== Sys2Proof/Laws/State.lean ====
section
/-! SUPPORT. One lemma per field and per named update of State, each true by definition, so that no proof unfolds a record update; the sections of a state after an update; the views. -/

namespace Sys2Proof.Machine

/-! ### emit -/

@[simp] theorem State.emit_cfg (s : State) (es : List Event) : (State.emit s es).cfg = s.cfg := rfl
@[simp] theorem State.emit_fb (s : State) (es : List Event) : (State.emit s es).fb = s.fb := rfl
@[simp] theorem State.emit_secs (s : State) (es : List Event) : (State.emit s es).secs = s.secs := rfl
@[simp] theorem State.emit_sel (s : State) (es : List Event) : (State.emit s es).sel = s.sel := rfl
@[simp] theorem State.emit_fault (s : State) (es : List Event) : (State.emit s es).fault = s.fault := rfl
@[simp] theorem State.emit_faultInfo (s : State) (es : List Event) : (State.emit s es).faultInfo = s.faultInfo := rfl
@[simp] theorem State.emit_trace (s : State) (es : List Event) : (State.emit s es).trace = s.trace ++ es := rfl
@[simp] theorem State.emit_rst (s : State) (es : List Event) : (State.emit s es).rst = s.rst := rfl
@[simp] theorem State.emit_cmds (s : State) (es : List Event) : (State.emit s es).cmds = s.cmds := rfl
@[simp] theorem State.emit_rand (s : State) (es : List Event) : (State.emit s es).rand = s.rand := rfl
@[simp] theorem State.emit_driverReady (s : State) (es : List Event) : (State.emit s es).driverReady = s.driverReady := rfl
@[simp] theorem State.emit_inFrame (s : State) (es : List Event) : (State.emit s es).inFrame = s.inFrame := rfl
@[simp] theorem State.emit_frameSec (s : State) (es : List Event) : (State.emit s es).frameSec = s.frameSec := rfl
@[simp] theorem State.emit_rejections (s : State) (es : List Event) : (State.emit s es).rejections = s.rejections := rfl

/-! ### raiseFault -/

@[simp] theorem State.raiseFault_cfg (x : FaultCause) (info : Word) (s : State) : (State.raiseFault x info s).cfg = s.cfg := rfl
@[simp] theorem State.raiseFault_fb (x : FaultCause) (info : Word) (s : State) : (State.raiseFault x info s).fb = s.fb := rfl
@[simp] theorem State.raiseFault_secs (x : FaultCause) (info : Word) (s : State) : (State.raiseFault x info s).secs = s.secs := rfl
@[simp] theorem State.raiseFault_sel (x : FaultCause) (info : Word) (s : State) : (State.raiseFault x info s).sel = s.sel := rfl
@[simp] theorem State.raiseFault_fault (x : FaultCause) (info : Word) (s : State) : (State.raiseFault x info s).fault = x.latched := rfl
@[simp] theorem State.raiseFault_faultInfo (x : FaultCause) (info : Word) (s : State) : (State.raiseFault x info s).faultInfo = info := rfl
@[simp] theorem State.raiseFault_trace (x : FaultCause) (info : Word) (s : State) : (State.raiseFault x info s).trace = s.trace := rfl
@[simp] theorem State.raiseFault_rst (x : FaultCause) (info : Word) (s : State) : (State.raiseFault x info s).rst = s.rst := rfl
@[simp] theorem State.raiseFault_cmds (x : FaultCause) (info : Word) (s : State) : (State.raiseFault x info s).cmds = s.cmds := rfl
@[simp] theorem State.raiseFault_rand (x : FaultCause) (info : Word) (s : State) : (State.raiseFault x info s).rand = s.rand := rfl
@[simp] theorem State.raiseFault_driverReady (x : FaultCause) (info : Word) (s : State) : (State.raiseFault x info s).driverReady = s.driverReady := rfl
@[simp] theorem State.raiseFault_inFrame (x : FaultCause) (info : Word) (s : State) : (State.raiseFault x info s).inFrame = s.inFrame := rfl
@[simp] theorem State.raiseFault_frameSec (x : FaultCause) (info : Word) (s : State) : (State.raiseFault x info s).frameSec = s.frameSec := rfl
@[simp] theorem State.raiseFault_rejections (x : FaultCause) (info : Word) (s : State) : (State.raiseFault x info s).rejections = s.rejections := rfl

/-! ### setSec -/

@[simp] theorem State.setSec_cfg (s : State) (k : Fin 4) (v : SectionRegs) : (State.setSec s k v).cfg = s.cfg := rfl
@[simp] theorem State.setSec_fb (s : State) (k : Fin 4) (v : SectionRegs) : (State.setSec s k v).fb = s.fb := rfl
@[simp] theorem State.setSec_secs (s : State) (k : Fin 4) (v : SectionRegs) : (State.setSec s k v).secs = s.secs.set k v := rfl
@[simp] theorem State.setSec_sel (s : State) (k : Fin 4) (v : SectionRegs) : (State.setSec s k v).sel = s.sel := rfl
@[simp] theorem State.setSec_fault (s : State) (k : Fin 4) (v : SectionRegs) : (State.setSec s k v).fault = s.fault := rfl
@[simp] theorem State.setSec_faultInfo (s : State) (k : Fin 4) (v : SectionRegs) : (State.setSec s k v).faultInfo = s.faultInfo := rfl
@[simp] theorem State.setSec_trace (s : State) (k : Fin 4) (v : SectionRegs) : (State.setSec s k v).trace = s.trace := rfl
@[simp] theorem State.setSec_rst (s : State) (k : Fin 4) (v : SectionRegs) : (State.setSec s k v).rst = s.rst := rfl
@[simp] theorem State.setSec_cmds (s : State) (k : Fin 4) (v : SectionRegs) : (State.setSec s k v).cmds = s.cmds := rfl
@[simp] theorem State.setSec_rand (s : State) (k : Fin 4) (v : SectionRegs) : (State.setSec s k v).rand = s.rand := rfl
@[simp] theorem State.setSec_driverReady (s : State) (k : Fin 4) (v : SectionRegs) : (State.setSec s k v).driverReady = s.driverReady := rfl
@[simp] theorem State.setSec_inFrame (s : State) (k : Fin 4) (v : SectionRegs) : (State.setSec s k v).inFrame = s.inFrame := rfl
@[simp] theorem State.setSec_frameSec (s : State) (k : Fin 4) (v : SectionRegs) : (State.setSec s k v).frameSec = s.frameSec := rfl
@[simp] theorem State.setSec_rejections (s : State) (k : Fin 4) (v : SectionRegs) : (State.setSec s k v).rejections = s.rejections := rfl

/-! ### putView -/

@[simp] theorem State.putView_cfg (s : State) (k : Fin 4) (v : KernelView) : (State.putView s k v).cfg = s.cfg := rfl
@[simp] theorem State.putView_fb (s : State) (k : Fin 4) (v : KernelView) : (State.putView s k v).fb = v.fb := rfl
@[simp] theorem State.putView_secs (s : State) (k : Fin 4) (v : KernelView) : (State.putView s k v).secs = s.secs.set k v.sec := rfl
@[simp] theorem State.putView_sel (s : State) (k : Fin 4) (v : KernelView) : (State.putView s k v).sel = s.sel := rfl
@[simp] theorem State.putView_fault (s : State) (k : Fin 4) (v : KernelView) : (State.putView s k v).fault = s.fault := rfl
@[simp] theorem State.putView_faultInfo (s : State) (k : Fin 4) (v : KernelView) : (State.putView s k v).faultInfo = s.faultInfo := rfl
@[simp] theorem State.putView_trace (s : State) (k : Fin 4) (v : KernelView) : (State.putView s k v).trace = s.trace := rfl
@[simp] theorem State.putView_rst (s : State) (k : Fin 4) (v : KernelView) : (State.putView s k v).rst = s.rst := rfl
@[simp] theorem State.putView_cmds (s : State) (k : Fin 4) (v : KernelView) : (State.putView s k v).cmds = s.cmds := rfl
@[simp] theorem State.putView_rand (s : State) (k : Fin 4) (v : KernelView) : (State.putView s k v).rand = v.rand := rfl
@[simp] theorem State.putView_driverReady (s : State) (k : Fin 4) (v : KernelView) : (State.putView s k v).driverReady = s.driverReady := rfl
@[simp] theorem State.putView_inFrame (s : State) (k : Fin 4) (v : KernelView) : (State.putView s k v).inFrame = s.inFrame := rfl
@[simp] theorem State.putView_frameSec (s : State) (k : Fin 4) (v : KernelView) : (State.putView s k v).frameSec = s.frameSec := rfl
@[simp] theorem State.putView_rejections (s : State) (k : Fin 4) (v : KernelView) : (State.putView s k v).rejections = s.rejections := rfl

/-! ### runKernel -/

@[simp] theorem State.runKernel_cfg (f : Config → Fin 4 → KernelView → KernelView) (k : Fin 4) (s : State) : (State.runKernel f k s).cfg = s.cfg := rfl
@[simp] theorem State.runKernel_fb (f : Config → Fin 4 → KernelView → KernelView) (k : Fin 4) (s : State) : (State.runKernel f k s).fb = (f s.cfg k (s.view k)).fb := rfl
@[simp] theorem State.runKernel_secs (f : Config → Fin 4 → KernelView → KernelView) (k : Fin 4) (s : State) : (State.runKernel f k s).secs = s.secs.set k (f s.cfg k (s.view k)).sec := rfl
@[simp] theorem State.runKernel_sel (f : Config → Fin 4 → KernelView → KernelView) (k : Fin 4) (s : State) : (State.runKernel f k s).sel = s.sel := rfl
@[simp] theorem State.runKernel_fault (f : Config → Fin 4 → KernelView → KernelView) (k : Fin 4) (s : State) : (State.runKernel f k s).fault = s.fault := rfl
@[simp] theorem State.runKernel_faultInfo (f : Config → Fin 4 → KernelView → KernelView) (k : Fin 4) (s : State) : (State.runKernel f k s).faultInfo = s.faultInfo := rfl
@[simp] theorem State.runKernel_trace (f : Config → Fin 4 → KernelView → KernelView) (k : Fin 4) (s : State) : (State.runKernel f k s).trace = s.trace := rfl
@[simp] theorem State.runKernel_rst (f : Config → Fin 4 → KernelView → KernelView) (k : Fin 4) (s : State) : (State.runKernel f k s).rst = s.rst := rfl
@[simp] theorem State.runKernel_cmds (f : Config → Fin 4 → KernelView → KernelView) (k : Fin 4) (s : State) : (State.runKernel f k s).cmds = s.cmds := rfl
@[simp] theorem State.runKernel_rand (f : Config → Fin 4 → KernelView → KernelView) (k : Fin 4) (s : State) : (State.runKernel f k s).rand = (f s.cfg k (s.view k)).rand := rfl
@[simp] theorem State.runKernel_driverReady (f : Config → Fin 4 → KernelView → KernelView) (k : Fin 4) (s : State) : (State.runKernel f k s).driverReady = s.driverReady := rfl
@[simp] theorem State.runKernel_inFrame (f : Config → Fin 4 → KernelView → KernelView) (k : Fin 4) (s : State) : (State.runKernel f k s).inFrame = s.inFrame := rfl
@[simp] theorem State.runKernel_frameSec (f : Config → Fin 4 → KernelView → KernelView) (k : Fin 4) (s : State) : (State.runKernel f k s).frameSec = s.frameSec := rfl
@[simp] theorem State.runKernel_rejections (f : Config → Fin 4 → KernelView → KernelView) (k : Fin 4) (s : State) : (State.runKernel f k s).rejections = s.rejections := rfl

/-! ### overlay -/

@[simp] theorem State.overlay_cfg (s : State) : (State.overlay s).cfg = s.cfg := rfl
@[simp] theorem State.overlay_fb (s : State) : (State.overlay s).fb = fillSection s.cfg s.sel.sect (fbClear s.cfg.pixels s.fb) (fun _ => s.cfg.highlight) := rfl
@[simp] theorem State.overlay_secs (s : State) : (State.overlay s).secs = s.secs := rfl
@[simp] theorem State.overlay_sel (s : State) : (State.overlay s).sel = s.sel := rfl
@[simp] theorem State.overlay_fault (s : State) : (State.overlay s).fault = s.fault := rfl
@[simp] theorem State.overlay_faultInfo (s : State) : (State.overlay s).faultInfo = s.faultInfo := rfl
@[simp] theorem State.overlay_trace (s : State) : (State.overlay s).trace = s.trace := rfl
@[simp] theorem State.overlay_rst (s : State) : (State.overlay s).rst = s.rst := rfl
@[simp] theorem State.overlay_cmds (s : State) : (State.overlay s).cmds = s.cmds := rfl
@[simp] theorem State.overlay_rand (s : State) : (State.overlay s).rand = s.rand := rfl
@[simp] theorem State.overlay_driverReady (s : State) : (State.overlay s).driverReady = s.driverReady := rfl
@[simp] theorem State.overlay_inFrame (s : State) : (State.overlay s).inFrame = s.inFrame := rfl
@[simp] theorem State.overlay_frameSec (s : State) : (State.overlay s).frameSec = s.frameSec := rfl
@[simp] theorem State.overlay_rejections (s : State) : (State.overlay s).rejections = s.rejections := rfl

/-! ### render -/

@[simp] theorem State.render_cfg (s : State) : (State.render s).cfg = s.cfg := rfl
@[simp] theorem State.render_fb (s : State) : (State.render s).fb = s.fb := rfl
@[simp] theorem State.render_secs (s : State) : (State.render s).secs = s.secs := rfl
@[simp] theorem State.render_sel (s : State) : (State.render s).sel = s.sel := rfl
@[simp] theorem State.render_fault (s : State) : (State.render s).fault = s.fault := rfl
@[simp] theorem State.render_faultInfo (s : State) : (State.render s).faultInfo = s.faultInfo := rfl
@[simp] theorem State.render_trace (s : State) : (State.render s).trace = s.trace ++ frameEvents s.cfg s.fb := rfl
@[simp] theorem State.render_rst (s : State) : (State.render s).rst = s.rst := rfl
@[simp] theorem State.render_cmds (s : State) : (State.render s).cmds = s.cmds := rfl
@[simp] theorem State.render_rand (s : State) : (State.render s).rand = s.rand := rfl
@[simp] theorem State.render_driverReady (s : State) : (State.render s).driverReady = s.driverReady := rfl
@[simp] theorem State.render_inFrame (s : State) : (State.render s).inFrame = s.inFrame := rfl
@[simp] theorem State.render_frameSec (s : State) : (State.render s).frameSec = s.frameSec := rfl
@[simp] theorem State.render_rejections (s : State) : (State.render s).rejections = s.rejections := rfl

/-! ### Sections -/

theorem State.sec_eq (s : State) (k : Fin 4) : s.sec k = s.secs[k] := rfl

/-- Replacing one section's registers leaves the other sections alone. -/
theorem State.sec_set {s t : State} {k : Fin 4} {v : SectionRegs} (h : t.secs = s.secs.set k v) (j : Fin 4) :
    t.sec j = if j = k then v else s.sec j := by
  unfold State.sec
  by_cases hj : j = k
  · subst hj; simp [h]
  · have : k.val ≠ j.val := fun e => hj (Fin.ext e.symm)
    simp [h, hj, this]

@[simp] theorem State.setSec_sec (s : State) (k : Fin 4) (v : SectionRegs) (j : Fin 4) :
    (s.setSec k v).sec j = if j = k then v else s.sec j := State.sec_set rfl j

@[simp] theorem State.putView_sec (s : State) (k : Fin 4) (v : KernelView) (j : Fin 4) :
    (s.putView k v).sec j = if j = k then v.sec else s.sec j := State.sec_set rfl j

@[simp] theorem State.runKernel_sec (f : Config → Fin 4 → KernelView → KernelView) (k : Fin 4) (s : State) (j : Fin 4) :
    (s.runKernel f k).sec j = if j = k then (f s.cfg k (s.view k)).sec else s.sec j := State.sec_set rfl j

@[simp] theorem State.emit_sec (s : State) (es : List Event) (j : Fin 4) : (s.emit es).sec j = s.sec j := rfl

@[simp] theorem State.render_sec (s : State) (j : Fin 4) : s.render.sec j = s.sec j := rfl

@[simp] theorem State.raiseFault_sec (x : FaultCause) (info : Word) (s : State) (j : Fin 4) :
    (State.raiseFault x info s).sec j = s.sec j := rfl

/-- Writing a section's own registers back changes nothing. -/
@[simp] theorem State.secs_set_self (s : State) (k : Fin 4) : s.secs.set k (s.sec k) = s.secs := by
  simp [State.sec]

/-! ### Views -/

@[simp] theorem State.view_sec (s : State) (k : Fin 4) : (s.view k).sec = s.sec k := rfl

@[simp] theorem State.view_fb (s : State) (k : Fin 4) : (s.view k).fb = s.fb := rfl

@[simp] theorem State.view_rand (s : State) (k : Fin 4) : (s.view k).rand = s.rand := rfl

@[simp] theorem State.putView_view (s : State) (k : Fin 4) : s.putView k (s.view k) = s := by
  simp [State.putView]

/-- What a kernel can change, said once: the registers of its section, the framebuffer and the random source. -/
theorem State.runKernel_frame (f : Config → Fin 4 → KernelView → KernelView) (k : Fin 4) (s : State) :
    s.runKernel f k = { s with secs := (s.runKernel f k).secs, fb := (s.runKernel f k).fb, rand := (s.runKernel f k).rand } :=
  rfl

end Sys2Proof.Machine
end

