-- ==== Sys2Proof/Laws/Ops.lean ====
section
/-! SUPPORT. What each shared operation can do, said once: draws, colours, raising a fault, reset, fetching, waiting, and the step. -/

namespace Sys2Proof.Machine

/-! ### Draws -/

/-- A draw takes the next raw value, reduced to its domain, and moves the source on by one. -/
theorem RandomPort.draw_eq (n : Nat) (p : RandomPort) : p.draw n = (p.raw 0 % n, p.after 1) := by
  obtain ⟨q, t, a⟩ := p
  cases q <;> rfl

@[simp] theorem RandomPort.after_zero (p : RandomPort) : p.after 0 = p := by
  simp [RandomPort.after]

@[simp] theorem RandomPort.after_after (p : RandomPort) (m n : Nat) : (p.after m).after n = p.after (m + n) := by
  simp [RandomPort.after, Nat.add_assoc]

@[simp] theorem RandomPort.raw_after (p : RandomPort) (m i : Nat) : (p.after m).raw i = p.raw (m + i) := by
  simp [RandomPort.raw, RandomPort.after, Nat.add_assoc]

@[simp] theorem RandomPort.after_answering (p : RandomPort) (m : Nat) : (p.after m).answering = p.answering := rfl

@[simp] theorem RandomPort.after_taken (p : RandomPort) (m : Nat) : (p.after m).taken = p.taken + m := rfl

theorem RandomPort.draw_lt {n : Nat} (h : 0 < n) (p : RandomPort) : (p.draw n).1 < n := by
  rw [RandomPort.draw_eq]; exact Nat.mod_lt _ h

/-- Every element of a domain is the answer of some source (00_scope.md R13). -/
theorem RandomPort.draw_any {n v : Nat} (h : v < n) : ∃ p : RandomPort, (p.draw n).1 = v :=
  ⟨⟨[v], 0, true⟩, Nat.mod_eq_of_lt h⟩

theorem paletteColor_eq (c : Config) (p : RandomPort) :
    paletteColor c p = (c.pal (BitVec.ofNat 3 (p.raw 0 % 8)), p.after 1) := by
  simp [paletteColor, RandomPort.draw_eq]

theorem randomColor_eq (c : Config) (p : RandomPort) : randomColor c p = (drawnColor c p 0, p.after c.colorDraws) := by
  unfold randomColor drawnColor Config.colorDraws
  split <;> simp [RandomPort.draw_eq]

@[simp] theorem drawnColor_after (c : Config) (p : RandomPort) (m i : Nat) :
    drawnColor c (p.after m) i = drawnColor c p (m + i) := by
  simp [drawnColor, Nat.add_assoc]

/-- Colours drawn one after another, each of `m` draws. -/
theorem drawColors_eq {one : RandomPort → Color × RandomPort} {m : Nat} {col : RandomPort → Color}
    (h : ∀ p, one p = (col p, p.after m)) (n : Nat) (p : RandomPort) :
    drawColors one n p = ((List.range n).map (fun i => col (p.after (i * m))), p.after (n * m)) := by
  induction n generalizing p with
  | zero => simp [drawColors]
  | succ n ih =>
    simp only [drawColors, h, ih, List.range_succ_eq_map, List.map_cons, List.map_map, Prod.mk.injEq, List.cons.injEq]
    refine ⟨⟨by simp, List.map_congr_left fun i _ => ?_⟩, ?_⟩
    · simp [Nat.succ_mul, Nat.add_comm]
    · simp [Nat.succ_mul, Nat.add_comm]

theorem drawColors_length (one : RandomPort → Color × RandomPort) (n : Nat) (p : RandomPort) :
    (drawColors one n p).1.length = n := by
  induction n generalizing p with
  | zero => rfl
  | succ n ih => simp [drawColors, ih]

/-! ### Faults and reset -/

/-- VALID after a fault is raised (60_exceptions.md R321). -/
@[simp] theorem State.raiseFault_valid (x : FaultCause) (info : Word) (s : State) :
    (State.raiseFault x info s).faultValid = true := by
  change x.latched.getLsbD 3 = true
  cases x <;> decide

theorem State.release_legal {c : Config} (h : c.legal = true) (s : State) :
    s.release c = { State.afterReset c s.cmds s.rand s.driverReady with rejections := s.rejections } := if_pos h

theorem State.release_illegal {c : Config} (h : c.legal = false) (s : State) :
    s.release c =
      { s.undefine c with
        cfg := c, trace := [], rst := none, inFrame := false, frameSec := 0, fault := 11, faultInfo := 0 } := by
  simp [State.release, h, State.raiseFault, FaultCause.latched, FaultCause.code]

/-- The framebuffer that a rejection leaves is canonical, whatever the free values are. -/
theorem State.undefine_wf (c : Config) (s : State) : Memory.wf c.pixels (s.undefine c).fb = true :=
  fbFill_wf rfl _ _ _

theorem State.afterReset_sec (c : Config) (cmds : List Word) (rand : RandomPort) (d : Bool) (k : Fin 4) :
    (State.afterReset c cmds rand d).sec k = SectionRegs.initial c k := by
  simp [State.afterReset, State.sec]

/-- After a reset with a legal configuration every section holds its reset values. -/
theorem State.release_sec {c : Config} (h : c.legal = true) (s : State) (k : Fin 4) :
    (s.release c).sec k = SectionRegs.initial c k := by
  rw [State.release_legal h]
  exact State.afterReset_sec c s.cmds s.rand s.driverReady k

/-! ### What is taken next -/

theorem State.fetch_reset {s : State} {c : Config} (h : s.rst = some c) : s.fetch = .release c := by
  simp [State.fetch, h]

theorem State.fetch_halted {s : State} (hr : s.rst = none) (hf : s.faultValid = true) : s.fetch = .quiet := by
  simp [State.fetch, hr, hf]

theorem State.fetch_kernel {s : State} (hr : s.rst = none) (hf : s.faultValid = false) (hi : s.inFrame = true) :
    s.fetch = .take (.tag (s.sec s.frameSec).mode) s := by
  simp [State.fetch, hr, hf, hi, State.sec]

theorem State.fetch_command {s : State} {w : Word} {ws : List Word} (hr : s.rst = none) (hf : s.faultValid = false)
    (hi : s.inFrame = false) (hc : s.cmds = w :: ws) : s.fetch = .take (.command w) { s with cmds := ws } := by
  simp [State.fetch, hr, hf, hi, hc]

theorem State.fetch_idle {s : State} (hr : s.rst = none) (hf : s.faultValid = false) (hi : s.inFrame = false)
    (hc : s.cmds = []) : s.fetch = .quiet := by
  simp [State.fetch, hr, hf, hi, hc]

/-- Everything a fetch can answer. -/
theorem State.fetch_cases (s : State) :
    (∃ c, s.rst = some c ∧ s.fetch = .release c) ∨
    (s.rst = none ∧ s.fetch = .quiet ∧ (s.faultValid = true ∨ (s.faultValid = false ∧ s.inFrame = false ∧ s.cmds = []))) ∨
    (s.rst = none ∧ s.faultValid = false ∧ s.inFrame = true ∧ s.fetch = .take (.tag (s.sec s.frameSec).mode) s) ∨
    (∃ w ws, s.rst = none ∧ s.faultValid = false ∧ s.inFrame = false ∧ s.cmds = w :: ws ∧
      s.fetch = .take (.command w) { s with cmds := ws }) := by
  cases hr : s.rst with
  | some c => exact .inl ⟨c, rfl, State.fetch_reset hr⟩
  | none =>
    refine .inr ?_
    cases hf : s.faultValid with
    | true => exact .inl ⟨rfl, State.fetch_halted hr hf, .inl rfl⟩
    | false =>
      cases hi : s.inFrame with
      | true => exact .inr (.inl ⟨rfl, rfl, rfl, State.fetch_kernel hr hf hi⟩)
      | false =>
        cases hc : s.cmds with
        | nil => exact .inl ⟨rfl, State.fetch_idle hr hf hi hc, .inr ⟨rfl, rfl, rfl⟩⟩
        | cons w ws =>
          have hw := State.fetch_command hr hf hi hc
          rw [hr, hi] at hw
          exact .inr (.inr ⟨w, ws, rfl, rfl, rfl, rfl, hw⟩)

/-- A served block does not wait. -/
theorem State.orWait_served {s : State} (h : s.Served) (t : State) : s.orWait t = t := by
  simp [State.orWait, h.1, h.2]

/-- The block waits, unchanged, or its result stands. -/
theorem State.orWait_cases (s t : State) : s.orWait t = s ∨ s.orWait t = t := by
  unfold State.orWait; split <;> simp

/-- After a command's own effect `step` adds nothing. -/
@[simp] theorem State.finish_command (s : State) (w : Word) : s.finish (.command w) = s := rfl

@[simp] theorem State.finish_tag (s : State) (t : BitVec 4) : s.finish (.tag t) = s.advanceFrame := rfl

/-- A raised word or tag: only `FAULT` and `FAULT_INFO` change, and VALID is set. -/
theorem State.reject_eq (s : State) (e : Encoded) :
    s.reject e = { s with fault := (s.reject e).fault, faultInfo := (s.reject e).faultInfo } ∧
    (s.reject e).faultValid = true := by
  cases e <;> exact ⟨rfl, State.raiseFault_valid _ _ _⟩

/-! ### Decoding -/

theorem decodeOp_illegal_iff (op : BitVec 4) : decodeOp op = .illegalCommand ↔ ¬ op < 6 := by
  revert op; decide

theorem decodeOp_ne_reserved (op : BitVec 4) : decodeOp op ≠ .reservedTag := by
  revert op; decide

/-- A command word decodes to nothing exactly where it is ill formed (30_encoding.md R103). -/
theorem decodeCommand_illegal_iff (w : Word) : decodeCommand w = .illegalCommand ↔ (Encoded.command w).wf = false := by
  unfold decodeCommand
  change _ ↔ (w.rsvd == 0 && decide (w.op < 6)) = false
  by_cases h : w.rsvd = 0
  · rw [if_neg (not_not.mpr h), decodeOp_illegal_iff, beq_iff_eq.mpr h, Bool.true_and, decide_eq_false_iff_not]
  · rw [if_pos h, beq_eq_false_iff_ne.mpr h]
    simp

theorem decodeCommand_ne_reserved (w : Word) : decodeCommand w ≠ .reservedTag := by
  unfold decodeCommand
  split
  · simp
  · exact decodeOp_ne_reserved _

theorem decodeTag_reserved_iff (t : BitVec 4) : decodeTag t = .reservedTag ↔ ¬ t < 12 := by
  revert t; decide

theorem decodeTag_ne_illegal (t : BitVec 4) : decodeTag t ≠ .illegalCommand := by
  revert t; decide

/-- A legal tag selects a kernel. -/
theorem kernelOfTag_legal {t : BitVec 4} (h : t < 12) : ∃ f, kernelOfTag t = some f := by
  have hs : (kernelOfTag t).isSome = true := by revert t; decide
  exact Option.isSome_iff_exists.mp hs

/-! ### The step -/

theorem step_reset {s : State} {c : Config} (h : s.rst = some c) : step s = .next (s.release c) := by
  simp [step, State.fetch_reset h]

theorem step_quiet {s : State} (h : s.fetch = .quiet) : step s = .next s := by
  simp [step, h]

theorem step_take {s s' t : State} {e : Encoded} {i : Instr} (hf : s.fetch = .take e s') (hd : decode e = .instr i)
    (he : exec i s' = .next t) : step s = .next (s.orWait (t.finish e)) := by
  simp [step, hf, hd, he]

theorem step_reject {s s' : State} {e : Encoded} (hf : s.fetch = .take e s')
    (hd : decode e = .illegalCommand ∨ decode e = .reservedTag) : step s = .next (s'.reject e) := by
  rcases hd with hd | hd <;> simp [step, hf, hd]

/-- Every instruction answers a next state (60_exceptions.md R326: all operations are total). -/
theorem exec_next (i : Instr) (s : State) : ∃ t, exec i s = .next t := by
  cases i
  case frame =>
    simp only [exec, execFrame]
    split
    · exact ⟨_, rfl⟩
    · split <;> exact ⟨_, rfl⟩
  case button2 => simp only [exec, execButton2]; split <;> exact ⟨_, rfl⟩
  case nextMode => simp only [exec, execNextMode]; split <;> exact ⟨_, rfl⟩
  all_goals exact ⟨_, rfl⟩

/-- Everything a step can do. -/
theorem step_cases {s u : State} (h : step s = .next u) :
    (∃ c, s.rst = some c ∧ u = s.release c) ∨
    (s.rst = none ∧ s.fetch = .quiet ∧ u = s) ∨
    (s.rst = none ∧ s.faultValid = false ∧ ∃ e s' i t, s.fetch = .take e s' ∧ decode e = .instr i ∧
      exec i s' = .next t ∧ u = s.orWait (t.finish e)) ∨
    (s.rst = none ∧ s.faultValid = false ∧ ∃ e s', s.fetch = .take e s' ∧
      (decode e = .illegalCommand ∨ decode e = .reservedTag) ∧ u = s'.reject e) := by
  have inj : ∀ {a b : State}, (Host.Outcome.next a : Host.Outcome State Fault Refusal) = .next b → b = a := by
    intro a b hab; injection hab with hab; exact hab.symm
  have taken : ∀ e s', s.rst = none → s.faultValid = false → s.fetch = .take e s' →
      (s.rst = none ∧ s.faultValid = false ∧ ∃ e s' i t, s.fetch = .take e s' ∧ decode e = .instr i ∧
        exec i s' = .next t ∧ u = s.orWait (t.finish e)) ∨
      (s.rst = none ∧ s.faultValid = false ∧ ∃ e s', s.fetch = .take e s' ∧
        (decode e = .illegalCommand ∨ decode e = .reservedTag) ∧ u = s'.reject e) := by
    intro e s' hr hf he
    cases hd : decode e with
    | instr i =>
      obtain ⟨t, ht⟩ := exec_next i s'
      exact .inl ⟨hr, hf, e, s', i, t, he, hd, ht, inj ((step_take he hd ht).symm.trans h)⟩
    | illegalCommand => exact .inr ⟨hr, hf, e, s', he, .inl hd, inj ((step_reject he (.inl hd)).symm.trans h)⟩
    | reservedTag => exact .inr ⟨hr, hf, e, s', he, .inr hd, inj ((step_reject he (.inr hd)).symm.trans h)⟩
  rcases State.fetch_cases s with ⟨c, hr, _⟩ | ⟨hr, hq, _⟩ | ⟨hr, hf, _, he⟩ | ⟨w, ws, hr, hf, _, _, he⟩
  · exact .inl ⟨c, hr, inj ((step_reset hr).symm.trans h)⟩
  · exact .inr (.inl ⟨hr, hq, inj ((step_quiet hq).symm.trans h)⟩)
  · exact .inr (.inr (taken _ _ hr hf he))
  · exact .inr (.inr (taken _ _ hr hf he))

/-! ### Kernels, dispatch and the mode check -/

/-- The twelve kernel rows run the kernel that their tag selects, for the section in turn (46_frame_mux_writer.md R292). -/
theorem exec_of_tag {t : BitVec 4} {i : Instr} {f : Config → Fin 4 → KernelView → KernelView} (hd : decodeTag t = .instr i)
    (hf : kernelOfTag t = some f) (s : State) : exec i s = .next (s.runKernel f s.frameSec) := by
  unfold kernelOfTag at hf
  rw [hd] at hf
  cases i <;> first | (injection hf with hf; subst hf; rfl) | (cases hf)

theorem State.dispatch_eq {s : State} {k : Fin 4} {f : Config → Fin 4 → KernelView → KernelView}
    (h : kernelOfTag (s.sec k).mode = some f) : s.dispatch k = s.runKernel f k := by
  simp [State.dispatch, h]

/-- A dispatch changes only its section's registers, the framebuffer and the random source. -/
theorem State.dispatch_frame (s : State) (k : Fin 4) :
    s.dispatch k = { s with secs := (s.dispatch k).secs, fb := (s.dispatch k).fb, rand := (s.dispatch k).rand } := by
  unfold State.dispatch; split <;> rfl

theorem State.dispatch_sec_ne (s : State) {k j : Fin 4} (h : j ≠ k) : (s.dispatch k).sec j = s.sec j := by
  unfold State.dispatch
  split
  · simp [h]
  · rfl

theorem State.badSection_none {s : State} : s.badSection = none ↔ ∀ k, (s.sec k).mode < 12 := by
  unfold State.badSection
  rw [List.find?_eq_none]
  constructor
  · intro h k
    have := h k (by revert k; decide)
    simpa [BitVec.not_le] using this
  · intro h k _
    simpa [BitVec.not_le] using h k

end Sys2Proof.Machine
end

