-- ==== Sys2Proof/Laws/Kernels.lean ====
section
/-! SUPPORT. What each kernel can do to its view, said once per kernel: the registers it writes, that it keeps the framebuffer canonical, and that it only moves the random source on. -/

namespace Sys2Proof.Machine

/-! ### The registers a kernel writes (10_state.md R36 to R44) -/

@[simp] theorem kernelOff_sec (c : Config) (k : Fin 4) (v : KernelView) : (kernelOff c k v).sec = v.sec := rfl

@[simp] theorem kernelSolidColor_sec (c : Config) (k : Fin 4) (v : KernelView) :
    (kernelSolidColor c k v).sec = v.sec := rfl

@[simp] theorem kernelSolidPattern_sec (c : Config) (k : Fin 4) (v : KernelView) :
    (kernelSolidPattern c k v).sec = v.sec := rfl

@[simp] theorem kernelRainbow_sec (c : Config) (k : Fin 4) (v : KernelView) :
    (kernelRainbow c k v).sec = { v.sec with rbStep := v.sec.rbStep + 1 } := rfl

@[simp] theorem kernelSingleColorChase_sec (c : Config) (k : Fin 4) (v : KernelView) :
    (kernelSingleColorChase c k v).sec = { v.sec with
      sccIdx := (v.sec.sccIdx + 1) % c.sectionLen
      sccPal := if (v.sec.sccIdx + 1) % c.sectionLen = 0 then v.sec.sccPal + 1 else v.sec.sccPal } := rfl

@[simp] theorem kernelChase_sec (c : Config) (k : Fin 4) (v : KernelView) :
    (kernelChase c k v).sec = { v.sec with chIdx := (v.sec.chIdx + 1) % c.sectionLen } := rfl

@[simp] theorem kernelRandomAll_sec (c : Config) (k : Fin 4) (v : KernelView) :
    (kernelRandomAll c k v).sec = { v.sec with raCnt := (v.sec.raCnt + 1) % c.recolourPeriod } := by
  unfold kernelRandomAll; split <;> rfl

theorem kernelRandomOne_sec (c : Config) (k : Fin 4) (v : KernelView) :
    (kernelRandomOne c k v).sec = { v.sec with roLast := (v.rand.draw c.sectionLen).1 } := rfl

theorem kernelRaindrops_sec (c : Config) (k : Fin 4) (v : KernelView) :
    (kernelRaindrops c k v).sec = { v.sec with rdCol := (kernelRaindrops c k v).sec.rdCol } := rfl

theorem ffAdvance_frame (x : SectionRegs) :
    ffAdvance x = { x with
      ffPhase := (ffAdvance x).ffPhase, ffBri := (ffAdvance x).ffBri, ffActive := (ffAdvance x).ffActive } := rfl

theorem ffSpawn_frame (c : Config) (x : SectionRegs) (p : RandomPort) :
    (ffSpawn c x p).1 = { x with
      ffCol := (ffSpawn c x p).1.ffCol, ffPhase := (ffSpawn c x p).1.ffPhase, ffBri := (ffSpawn c x p).1.ffBri
      ffActive := (ffSpawn c x p).1.ffActive } := by
  unfold ffSpawn
  split
  · simp only []
    split <;> rfl
  · rfl

theorem kernelFireflies_sec (c : Config) (k : Fin 4) (v : KernelView) :
    (kernelFireflies c k v).sec = { v.sec with
      ffCol := (kernelFireflies c k v).sec.ffCol, ffPhase := (kernelFireflies c k v).sec.ffPhase
      ffBri := (kernelFireflies c k v).sec.ffBri, ffActive := (kernelFireflies c k v).sec.ffActive } :=
  ffSpawn_frame c (ffAdvance v.sec) v.rand

theorem rfSeedIfBlack_frame (c : Config) (k : Fin 4) (v : KernelView) :
    (rfSeedIfBlack c k v).sec = { v.sec with
      rfTgt := (rfSeedIfBlack c k v).sec.rfTgt, rfFs := (rfSeedIfBlack c k v).sec.rfFs } := by
  unfold rfSeedIfBlack; split <;> rfl

theorem rfPickLoop_frame (c : Config) (m : Nat) (el : List Nat) (x : SectionRegs) (p : RandomPort) :
    (rfPickLoop c m el x p).1 = { x with
      rfTgt := (rfPickLoop c m el x p).1.rfTgt, rfFs := (rfPickLoop c m el x p).1.rfFs } := by
  induction m generalizing el x p with
  | zero => rfl
  | succ m ih => rw [rfPickLoop, ih]

theorem rfPick_frame (c : Config) (v : KernelView) :
    (rfPick c v).sec = { v.sec with rfTgt := (rfPick c v).sec.rfTgt, rfFs := (rfPick c v).sec.rfFs } :=
  rfPickLoop_frame c _ _ _ _

@[simp] theorem rfPick_fb (c : Config) (v : KernelView) : (rfPick c v).fb = v.fb := rfl

theorem kernelTwinkle_sec (c : Config) (k : Fin 4) (v : KernelView) :
    (kernelTwinkle c k v).sec = { v.sec with
      rfTgt := (kernelTwinkle c k v).sec.rfTgt, rfFs := (kernelTwinkle c k v).sec.rfFs } := by
  unfold kernelTwinkle rfUpdate
  rw [rfPick_frame, rfSeedIfBlack_frame]

theorem dsMove_frame (c : Config) (x : SectionRegs) :
    dsMove c x = { x with dsCi := (dsMove c x).dsCi, dsPos := (dsMove c x).dsPos, dsRun := (dsMove c x).dsRun } := by
  unfold dsMove
  split
  · split <;> rfl
  · rfl

theorem kernelDropAndStack_sec (c : Config) (k : Fin 4) (v : KernelView) :
    (kernelDropAndStack c k v).sec = { v.sec with
      dsCi := (kernelDropAndStack c k v).sec.dsCi, dsPos := (kernelDropAndStack c k v).sec.dsPos
      dsRun := (kernelDropAndStack c k v).sec.dsRun } := by
  unfold kernelDropAndStack
  split
  · rfl
  · exact dsMove_frame c v.sec

/-! ### The canonical framebuffer -/

theorem chasePaint_wf {c : Config} {fb : FrameBuffer} (h : Memory.wf c.pixels fb = true) (k : Fin 4) (idx n : Nat) :
    Memory.wf c.pixels (chasePaint c k idx fb n) = true := by
  induction n with
  | zero => exact h
  | succ n ih => exact fbWrite_wf ih _ _

theorem rfSeedIfBlack_wf {c : Config} {v : KernelView} (h : Memory.wf c.pixels v.fb = true) (k : Fin 4) :
    Memory.wf c.pixels (rfSeedIfBlack c k v).fb = true := by
  unfold rfSeedIfBlack
  split
  · exact fillSection_wf h _ _
  · exact h

theorem dsPaint_wf {c : Config} {v : KernelView} (h : Memory.wf c.pixels v.fb = true) (k : Fin 4) :
    Memory.wf c.pixels (dsPaint c k v) = true := by
  unfold dsPaint
  simp only []
  split
  · exact fbWriteInt_wf (fbWriteInt_wf h _ _) _ _
  · exact fbWriteInt_wf h _ _

/-- Every kernel keeps the framebuffer canonical. -/
theorem kernelOfTag_wf {c : Config} {t : BitVec 4} {f : Config → Fin 4 → KernelView → KernelView}
    (hf : kernelOfTag t = some f) (k : Fin 4) {v : KernelView} (h : Memory.wf c.pixels v.fb = true) :
    Memory.wf c.pixels (f c k v).fb = true := by
  unfold kernelOfTag at hf
  split at hf
  all_goals first | (injection hf with hf; subst hf) | cases hf
  · exact fbFill_wf h _ _ _
  · exact fillSection_wf h _ _
  · exact fillSection_wf h _ _
  · exact fillSection_wf h _ _
  · exact fbWrite_wf (fillSection_wf h _ _) _ _
  · unfold kernelRandomAll
    split
    · exact fillSection_wf h _ _
    · exact h
  · exact fbWrite_wf h _ _
  · exact fillSection_wf h _ _
  · exact fillSection_wf (rfSeedIfBlack_wf h k) _ _
  · exact fillSection_wf h _ _
  · unfold kernelDropAndStack
    split
    · exact fillSection_wf h _ _
    · exact dsPaint_wf h k
  · exact chasePaint_wf (fillSection_wf h _ _) _ _ _

/-! ### The random source -/

theorem drawColors_after {one : RandomPort → Color × RandomPort} (h : ∀ p, ∃ m, (one p).2 = p.after m) (n : Nat)
    (p : RandomPort) : ∃ m, (drawColors one n p).2 = p.after m := by
  induction n generalizing p with
  | zero => exact ⟨0, by simp [drawColors]⟩
  | succ n ih =>
    obtain ⟨m, hm⟩ := h p
    obtain ⟨m', hm'⟩ := ih (one p).2
    exact ⟨m + m', by rw [drawColors, hm', hm, RandomPort.after_after]⟩

theorem ffSpawn_after (c : Config) (x : SectionRegs) (p : RandomPort) : ∃ m, (ffSpawn c x p).2 = p.after m := by
  unfold ffSpawn
  simp only [RandomPort.draw_eq, randomColor_eq, RandomPort.after_after]
  split
  · split
    · exact ⟨_, rfl⟩
    · exact ⟨_, rfl⟩
  · exact ⟨0, (RandomPort.after_zero p).symm⟩

theorem rfPickLoop_after (c : Config) (m : Nat) (el : List Nat) (x : SectionRegs) (p : RandomPort) :
    (rfPickLoop c m el x p).2 = p.after (m * (1 + c.colorDraws)) := by
  induction m generalizing el x p with
  | zero => simp [rfPickLoop]
  | succ m ih =>
    rw [rfPickLoop, ih]
    simp only [RandomPort.draw_eq, randomColor_eq, RandomPort.after_after]
    congr 1
    rw [Nat.succ_mul]; omega

theorem rfPick_after (c : Config) (v : KernelView) : ∃ m, (rfPick c v).rand = v.rand.after m := by
  unfold rfPick rfPickCount
  simp only [rfPickLoop_after, RandomPort.draw_eq]
  split
  · exact ⟨_, rfl⟩
  · exact ⟨_, RandomPort.after_after _ _ _⟩

theorem rfSeedIfBlack_after (c : Config) (k : Fin 4) (v : KernelView) : ∃ m, (rfSeedIfBlack c k v).rand = v.rand.after m := by
  unfold rfSeedIfBlack
  split
  · exact drawColors_after (fun p => ⟨_, by rw [randomColor_eq]⟩) _ _
  · exact ⟨0, (RandomPort.after_zero _).symm⟩

/-- A kernel does nothing to the random source but take draws from it. -/
theorem kernelOfTag_after {t : BitVec 4} {f : Config → Fin 4 → KernelView → KernelView} (hf : kernelOfTag t = some f)
    (c : Config) (k : Fin 4) (v : KernelView) : ∃ m, (f c k v).rand = v.rand.after m := by
  unfold kernelOfTag at hf
  have none : ∃ m, v.rand = v.rand.after m := ⟨0, (RandomPort.after_zero _).symm⟩
  split at hf
  all_goals first | (injection hf with hf; subst hf) | cases hf
  · exact none
  · exact none
  · exact none
  · exact none
  · exact none
  · unfold kernelRandomAll
    split
    · exact drawColors_after (fun p => ⟨_, by rw [paletteColor_eq]⟩) _ _
    · exact none
  · exact ⟨_, by simp only [kernelRandomOne, RandomPort.draw_eq, randomColor_eq, RandomPort.after_after]; rfl⟩
  · exact ⟨_, by simp only [kernelRaindrops, RandomPort.draw_eq, randomColor_eq, RandomPort.after_after]; rfl⟩
  · obtain ⟨a, ha⟩ := rfSeedIfBlack_after c k v
    obtain ⟨b, hb⟩ := rfPick_after c (rfSeedIfBlack c k v)
    exact ⟨a + b, by simp only [kernelTwinkle, rfUpdate, hb, ha, RandomPort.after_after]⟩
  · exact ffSpawn_after c _ _
  · unfold kernelDropAndStack
    split
    · exact none
    · exact none
  · exact none

/-- The shape of every instruction's effect but FRAME's: a kernel row is one kernel on the section in turn. -/
theorem exec_kernel {i : Instr} (h : i ∈ modeList) (s : State) :
    ∃ t f, encode i = .tag t ∧ decodeTag t = .instr i ∧ kernelOfTag t = some f ∧
      exec i s = .next (s.runKernel f s.frameSec) := by
  have key : ∃ t, encode i = .tag t ∧ decodeTag t = .instr i ∧ t < 12 := by
    revert h; cases i <;> first | (intro; exact ⟨_, rfl, by decide, by decide⟩) | (intro h; revert h; decide)
  obtain ⟨t, he, hd, hlt⟩ := key
  obtain ⟨f, hf⟩ := kernelOfTag_legal hlt
  exact ⟨t, f, he, hd, hf, exec_of_tag hd hf s⟩

end Sys2Proof.Machine
end

