-- ==== Sys2Proof/Laws/PerInstr.lean ====
section
/-! SUPPORT. Per-instruction statements about the instructions as syntax: the shape of each encoding (30_encoding.md R100 to R106). -/

namespace Sys2Proof.Laws.EncodingShape

/-- The instruction is well formed and its encoding is a legal one: a command word with nothing below its opcode and an opcode
below 6, or a tag below 12. -/
def Statement (i : Instr) : Prop := i.wf = true ∧ (encode i).wf = true

theorem nop : Statement .nop := ⟨rfl, by decide⟩
theorem frame : Statement .frame := ⟨rfl, by decide⟩
theorem toggleSelect : Statement .toggleSelect := ⟨rfl, by decide⟩
theorem button2 : Statement .button2 := ⟨rfl, by decide⟩
theorem nextMode : Statement .nextMode := ⟨rfl, by decide⟩
theorem cursor : Statement .cursor := ⟨rfl, by decide⟩
theorem modeOff : Statement .modeOff := ⟨rfl, by decide⟩
theorem modeSolidColor : Statement .modeSolidColor := ⟨rfl, by decide⟩
theorem modeSolidPattern : Statement .modeSolidPattern := ⟨rfl, by decide⟩
theorem modeRainbow : Statement .modeRainbow := ⟨rfl, by decide⟩
theorem modeSingleColorChase : Statement .modeSingleColorChase := ⟨rfl, by decide⟩
theorem modeRandomAll : Statement .modeRandomAll := ⟨rfl, by decide⟩
theorem modeRandomOne : Statement .modeRandomOne := ⟨rfl, by decide⟩
theorem modeRaindrops : Statement .modeRaindrops := ⟨rfl, by decide⟩
theorem modeTwinkle : Statement .modeTwinkle := ⟨rfl, by decide⟩
theorem modeFireflies : Statement .modeFireflies := ⟨rfl, by decide⟩
theorem modeDropAndStack : Statement .modeDropAndStack := ⟨rfl, by decide⟩
theorem modeChase : Statement .modeChase := ⟨rfl, by decide⟩

end Sys2Proof.Laws.EncodingShape
end

