-- ==== Sys2Proof/Laws/Widths.lean ====
section
/-! SUPPORT. The register widths of 10_state.md R53: what `bitsFor` counts, and that the free values after CONFIG_REJECT keep within them. -/

namespace Sys2Proof

/-- Every value below `n` fits in `bitsFor n` bits. -/
theorem lt_two_pow_bitsFor {i n : Nat} (h : i < n) : i < 2 ^ bitsFor n := by
  have : n - 1 < 2 ^ bitsFor n := Nat.lt_log2_self
  omega

theorem le_two_pow_bitsFor (n : Nat) : n ≤ 2 ^ bitsFor n := by
  have : n - 1 < 2 ^ bitsFor n := Nat.lt_log2_self
  omega

theorem one_le_bitsFor (n : Nat) : 1 ≤ bitsFor n := Nat.le_add_left 1 _

/-- `bitsFor n` is the least number of bits, at least 1, that holds every value below `n`. -/
theorem bitsFor_le {n w : Nat} (hn : n - 1 < 2 ^ w) (hw : 1 ≤ w) : bitsFor n ≤ w := by
  unfold bitsFor
  by_cases h : n - 1 = 0
  · simpa [h] using hw
  · exact (Nat.log2_lt h).mpr hn

end Sys2Proof

namespace Sys2Proof.Machine

/-- What a rejection leaves in a section keeps within the registers' widths, whatever the free values are. -/
theorem freeSection_fits (c : Config) (n : Nat) (k : Fin 4) : (freeSection c n k).Fits c := by
  have index (i : Nat) : i % 2 ^ c.indexWidth < 2 ^ c.indexWidth := Nat.mod_lt _ (Nat.two_pow_pos _)
  have double (i : Nat) : i % (2 * 2 ^ c.indexWidth) < 2 * 2 ^ c.indexWidth :=
    Nat.mod_lt _ (Nat.mul_pos (by decide) (Nat.two_pow_pos _))
  have hp := double (freeNat n (32 * (k.val + 1) + 18) 0)
  refine ⟨by simp [freeSection], index _, index _, Nat.mod_lt _ (Nat.two_pow_pos _), index _, by simp [freeSection],
    by simp [freeSection], by simp [freeSection], by simp [freeSection], List.filter_sublist, by simp [freeSection],
    by simp [freeSection], ?_, ?_, ?_, ?_⟩
  · rw [Nat.pow_succ, Nat.mul_comm]; exact double _
  · rw [Nat.pow_succ, Nat.mul_comm]; exact double _
  all_goals
    simp only [freeSection]
    generalize freeNat n (32 * (k.val + 1) + 18) 0 % (2 * 2 ^ c.indexWidth) = pos at hp ⊢
    push_cast
    have : (pos : Int) < 2 * 2 ^ c.indexWidth := by exact_mod_cast hp
    omega

/-- The sections a rejection leaves. -/
theorem State.undefine_sec (c : Config) (s : State) (k : Fin 4) : (s.undefine c).sec k = freeSection c s.rejections k := by
  simp [State.undefine, State.sec]

/-- The cursor a rejection leaves. -/
theorem State.undefine_pixel_lt (c : Config) (s : State) : (s.undefine c).sel.pixel < 2 ^ c.indexWidth :=
  Nat.mod_lt _ (Nat.two_pow_pos _)

/-! ### The list of eligible pixels (43_random_kernels.md R222) -/

theorem mem_eligibleWithout {len : Nat} {x : SectionRegs} {picked : List Nat} {k : Nat} :
    k ∈ eligibleWithout len x picked ↔ k < len ∧ x.rfFs.getD k 0 = 0 ∧ k ∉ picked := by
  simp [eligibleWithout]

theorem eligibleWithout_nil (len : Nat) (x : SectionRegs) : eligibleWithout len x [] = rfEligible len x := by
  simp [eligibleWithout, rfEligible]

end Sys2Proof.Machine
end

