-- ==== Sys2Proof/Tests/Slice0.lean ====
section
/-! SUPPORT. Tests: the checks of WellFormed, decoding of words written out from spec/, one step of each instruction against the vectors of 95_test_vectors.md, and a witness for the hypotheses of each statement. -/

namespace Sys2Proof.Tests
open Sys2Proof Sys2Proof.Machine

/-! ### Helpers -/

/-- Palette entry `j` of the default palette, `P0` to `P7` of 95_test_vectors.md. -/
def pal (j : BitVec 3) : Color := Config.default.pal j

/-- The configuration of 95_test_vectors.md for section length `len`. -/
def cfg (len : Nat) (modes : Vector (BitVec 4) 4) : Config :=
  { Config.default with width := 4 * len, initMode := modes }

/-- The state after reset with these modes and draws to come. -/
def boot (len : Nat) (modes : Vector (BitVec 4) 4) (draws : List Nat) : State :=
  State.afterReset (cfg len modes) [] ⟨draws, 0, true⟩ true

/-- `s` with the registers of section 0 changed. -/
def upd (s : State) (f : SectionRegs → SectionRegs) : State := s.setSec 0 (f (s.sec 0))

/-- The next state of an instruction; the state itself if there were none. -/
def after (i : Instr) (s : State) : State :=
  match exec i s with
  | .next t => t
  | .fault _ => s
  | .refused _ => s

/-- The next state of a step. -/
def stepped (s : State) : State :=
  match step s with
  | .next t => t
  | .fault _ => s
  | .refused _ => s

/-- The first `n` entries of the framebuffer. -/
def shown (n : Nat) (s : State) : List Color := (List.range n).map (Memory.read s.fb)

/-- The words on the trace. -/
def words (s : State) : List Word := s.trace.map fun e => match e with
  | .pix _ w => w
  | .flush => 0xFFFFFFFF

/-! ### WellFormed: each check refuses an ill-formed term -/

theorem test_wf_opcode_six : (Encoded.command 0x60000000).wf = false := by decide
theorem test_wf_opcode_fifteen : (Encoded.command 0xF0000000).wf = false := by decide
theorem test_wf_reserved_bit_0 : (Encoded.command 0x10000001).wf = false := by decide
theorem test_wf_reserved_bit_27 : (Encoded.command 0x58000000).wf = false := by decide
theorem test_wf_command_cursor : (Encoded.command 0x50000000).wf = true := by decide
theorem test_wf_tag_twelve : (Encoded.tag 12).wf = false := by decide
theorem test_wf_tag_eleven : (Encoded.tag 11).wf = true := by decide
theorem test_wf_frames_zero : (AsmLine.frames 0).wf = false := by decide
theorem test_wf_setmode_steps_twelve : (AsmLine.setModeSteps 12).wf = false ∧ (AsmLine.setModeSteps 11).wf = true := by decide
theorem test_wf_instr : Instr.modeChase.wf = true := by decide

/-- Configuration legality, one broken condition each (10_state.md R51; V-FL1). -/
theorem test_legal_default : Config.default.legal = true := by decide
theorem test_illegal_width : { Config.default with width := 0 }.legal = false := by decide
theorem test_illegal_height : { Config.default with height := 0 }.legal = false := by decide
theorem test_illegal_three_pixels : { Config.default with width := 3 }.legal = false := by decide
theorem test_illegal_den_zero : { Config.default with brightNum := 0, brightDen := 0 }.legal = false := by decide
theorem test_illegal_bright : { Config.default with brightNum := 3, brightDen := 2 }.legal = false := by decide
theorem test_illegal_delay : { Config.default with frameDelayMs := 0 }.legal = false := by decide
theorem test_illegal_palette : { Config.default with palette := Vector.replicate 8 (pal 0) }.legal = false := by decide
theorem test_illegal_no_pattern :
    { Config.default with patternLen := 0, initPattern := Vector.replicate 4 [] }.legal = false := by decide
theorem test_illegal_pattern_length : { Config.default with patternLen := 7 }.legal = false := by decide
theorem test_illegal_mode : { Config.default with initMode := #v[0, 0, 12, 0] }.legal = false := by decide

/-- R53: the bits needed for `L - 1`, at least 1, for `L = 1, 2, 3, 64, 65`; `ceil(log2(P))` for the delays of V-RA1 50 (`P = 4`), 30
(`P = 7`) and 200 (`P = 1`). -/
theorem test_widths :
    [1, 2, 3, 64, 65].map (fun l => (cfg l #v[0, 0, 0, 0]).indexWidth) = [1, 1, 2, 6, 7] ∧
    [50, 30, 200].map (fun d => { Config.default with frameDelayMs := d }.counterWidth) = [2, 3, 1] := by decide

/-! ### Decoding: words written out from 30_encoding.md R102 and R104 -/

theorem test_decode_nop : decode (.command 0b00000000000000000000000000000000) = .instr .nop := by decide
theorem test_decode_frame : decode (.command 0b00010000000000000000000000000000) = .instr .frame := by decide
theorem test_decode_toggleSelect : decode (.command 0b00100000000000000000000000000000) = .instr .toggleSelect := by decide
theorem test_decode_button2 : decode (.command 0b00110000000000000000000000000000) = .instr .button2 := by decide
theorem test_decode_nextMode : decode (.command 0b01000000000000000000000000000000) = .instr .nextMode := by decide
theorem test_decode_cursor : decode (.command 0b01010000000000000000000000000000) = .instr .cursor := by decide
theorem test_decode_illegal_op : decode (.command 0b01100000000000000000000000000000) = .illegalCommand := by decide
theorem test_decode_illegal_rsvd : decode (.command 0b00110000000000000000000000000001) = .illegalCommand := by decide
theorem test_decode_modeOff : decode (.tag 0b0000) = .instr .modeOff := by decide
theorem test_decode_modeSolidColor : decode (.tag 0b0001) = .instr .modeSolidColor := by decide
theorem test_decode_modeSolidPattern : decode (.tag 0b0010) = .instr .modeSolidPattern := by decide
theorem test_decode_modeRainbow : decode (.tag 0b0011) = .instr .modeRainbow := by decide
theorem test_decode_modeSingleColorChase : decode (.tag 0b0100) = .instr .modeSingleColorChase := by decide
theorem test_decode_modeRandomAll : decode (.tag 0b0101) = .instr .modeRandomAll := by decide
theorem test_decode_modeRandomOne : decode (.tag 0b0110) = .instr .modeRandomOne := by decide
theorem test_decode_modeRaindrops : decode (.tag 0b0111) = .instr .modeRaindrops := by decide
theorem test_decode_modeTwinkle : decode (.tag 0b1000) = .instr .modeTwinkle := by decide
theorem test_decode_modeFireflies : decode (.tag 0b1001) = .instr .modeFireflies := by decide
theorem test_decode_modeDropAndStack : decode (.tag 0b1010) = .instr .modeDropAndStack := by decide
theorem test_decode_modeChase : decode (.tag 0b1011) = .instr .modeChase := by decide
theorem test_decode_reserved_tag : decode (.tag 0b1100) = .reservedTag ∧ decode (.tag 0b1111) = .reservedTag := by decide

/-- PR5 and R112, in mixed case. -/
theorem test_assemble : assemble "frame\n.word 0x30000001 ; BUTTON2 with a reserved bit set\n\nSetMode_Steps 2 ; x" =
    some [0x10000000, 0x30000001, 0x40000000, 0x40000000] := by decide

/-- R111: a mnemonic with an operand is no line. -/
theorem test_assemble_refuses : assemble "FRAME 3" = none ∧ assemble "FRAMES 0" = none ∧ assemble ".word 123456789" = none := by decide

/-! ### One step of each instruction (95_test_vectors.md) -/

/-- V-CT1. -/
theorem test_nop : stepped { State.reset with cmds := [0] } = State.reset := by decide
/-- V-CT5. -/
theorem test_cursor : stepped { State.reset with cmds := [0x50000000] } = State.reset := by decide
/-- V-CT2: from Normal, all red. -/
theorem test_toggleSelect :
    let t := after .toggleSelect { boot 1 #v[1, 1, 1, 1] [] with fb := (List.range 4).map fun i => (i, pal 0) }
    t.sel.selecting = true ∧ shown 4 t = List.replicate 4 Color.black := by decide
/-- V-CT3: the selected section holds P7 in SolidColor. -/
theorem test_button2_solid :
    let t := after .button2 (upd (boot 1 #v[1, 3, 1, 1] []) fun x => { x with solid := pal 7 })
    (t.sec 0).solid = pal 0 ∧ t.sel.sect = 0 := by decide
/-- V-CT3, V-SP1: selection wraps from 3 to 0; a pattern cycles entry by entry, a non-member to P0. -/
theorem test_button2_select_pattern :
    (after .button2 { State.reset with sel := ⟨true, 3, 0⟩ }).sel.sect = 0 ∧
    ((after .button2 (upd (boot 4 #v[2, 1, 1, 1] []) fun x => { x with pattern := [pal 0, pal 2, ⟨1, 2, 3⟩] })).sec 0).pattern =
      [pal 1, pal 3, pal 0] := by decide
/-- V-CT4: 3 to 4 with a clear, 11 to 0. -/
theorem test_nextMode :
    let t := after .nextMode { boot 1 #v[3, 1, 1, 1] [] with fb := [(1, pal 2)] }
    (t.sec 0).mode = 4 ∧ shown 4 t = List.replicate 4 Color.black ∧
    ((after .nextMode (boot 1 #v[11, 1, 1, 1] [])).sec 0).mode = 0 := by decide
/-- V-CT4: nothing in Selecting state. -/
theorem test_nextMode_selecting :
    after .nextMode { State.reset with sel := ⟨true, 0, 0⟩ } = { State.reset with sel := ⟨true, 0, 0⟩ } := by decide

/-- V-OFF1: an Off section erases the section below it. -/
theorem test_frame_off_erases :
    let s := boot 2 #v[1, 0, 1, 1] []
    shown 8 (after .frame ((s.setSec 2 { s.sec 2 with solid := pal 1 }).setSec 3 { s.sec 3 with solid := pal 2 })) =
      [Color.black, Color.black, Color.black, Color.black, pal 1, pal 1, pal 2, pal 2] := by decide
/-- V-FR1: the overlay on section 2, its words, then the flush. -/
theorem test_frame_overlay :
    words (after .frame { boot 2 #v[1, 1, 1, 1] [] with sel := ⟨true, 2, 0⟩ }) =
      [0, 0, 0, 0, 0x0000FF00, 0x0000FF00, 0, 0, 0xFFFFFFFF] := by decide
/-- V-FL1: `S[2].mode = 13`, `S[3].mode = 12`. -/
theorem test_frame_bad_tag :
    let s := boot 1 #v[1, 1, 13, 12] []
    after .frame s = { s with fault := 0xA, faultInfo := 0x0000002D } := by decide
/-- V-FL1: an illegal word, and the FRAME after it. -/
theorem test_illegal_command :
    let t := stepped { State.reset with cmds := [0x60000000, 0x10000000] }
    t.fault = 9 ∧ t.faultInfo = 0x60000000 ∧ stepped t = t := by decide
/-- V-FL1: a configuration of three pixels. -/
theorem test_config_reject :
    let t := stepped { State.reset with rst := some { Config.default with width := 3 } }
    t.fault = 0xB ∧ t.faultInfo = 0 := by decide

/-- R160. -/
theorem test_modeOff : shown 4 (after .modeOff { boot 1 #v[0, 1, 1, 1] [] with fb := [(0, pal 1), (3, pal 2)] }) =
    List.replicate 4 Color.black := by decide
/-- V-SC1, with `L = 2`. -/
theorem test_modeSolidColor : shown 4 (after .modeSolidColor (boot 2 #v[1, 1, 1, 1] [])) =
    [pal 0, pal 0, Color.black, Color.black] := by decide
/-- V-SP1. -/
theorem test_modeSolidPattern :
    let s := { boot 4 #v[2, 1, 1, 1] [] with cfg := { cfg 4 #v[2, 1, 1, 1] with patternLen := 3 } }
    shown 5 (after .modeSolidPattern (upd s fun x => { x with pattern := [pal 0, pal 2, ⟨1, 2, 3⟩] })) =
      [pal 0, pal 2, ⟨1, 2, 3⟩, pal 0, Color.black] := by decide
/-- V-RB1: `L = 4`, step 1. -/
theorem test_modeRainbow :
    let t := after .modeRainbow (upd (boot 4 #v[3, 1, 1, 1] []) fun x => { x with rbStep := 1 })
    shown 4 t = [⟨3, 252, 0⟩, ⟨195, 60, 0⟩, ⟨123, 0, 132⟩, ⟨0, 69, 186⟩] ∧ (t.sec 0).rbStep = 2 := by decide
/-- V-RB1: the step wraps at 255. -/
theorem test_modeRainbow_wraps :
    let t := after .modeRainbow (upd (boot 1 #v[3, 1, 1, 1] []) fun x => { x with rbStep := 255 })
    shown 1 t = [⟨0, 255, 0⟩] ∧ (t.sec 0).rbStep = 0 := by decide
/-- V-SCC1, frame 3. -/
theorem test_modeSingleColorChase :
    let t := after .modeSingleColorChase (upd (boot 3 #v[4, 1, 1, 1] []) fun x => { x with sccIdx := 2 })
    shown 3 t = [Color.black, Color.black, pal 0] ∧ (t.sec 0).sccIdx = 0 ∧ (t.sec 0).sccPal = 1 := by decide
/-- V-CH1: `L = 4`, index 3; the highest colour wins a shared pixel. -/
theorem test_modeChase :
    let t := after .modeChase (upd (boot 4 #v[11, 1, 1, 1] []) fun x => { x with chIdx := 3 })
    shown 4 t = [pal 5, pal 6, pal 7, pal 4] ∧ (t.sec 0).chIdx = 0 := by decide
/-- V-CH1: `L = 10`, index 5. -/
theorem test_modeChase_wide :
    shown 10 (after .modeChase (upd (boot 10 #v[11, 1, 1, 1] []) fun x => { x with chIdx := 5 })) =
      [pal 5, pal 6, pal 7, Color.black, Color.black, pal 0, pal 1, pal 2, pal 3, pal 4] := by decide
/-- V-RA2, frame 1. -/
theorem test_modeRandomAll :
    let t := after .modeRandomAll (boot 2 #v[5, 1, 1, 1] [3, 5])
    shown 2 t = [pal 3, pal 5] ∧ (t.sec 0).raCnt = 1 ∧ t.rand = ⟨[], 2, true⟩ := by decide
/-- V-RA2, frame 4: no draw, the counter wraps. -/
theorem test_modeRandomAll_keeps :
    let t := after .modeRandomAll (upd { boot 2 #v[5, 1, 1, 1] [0] with fb := [(0, pal 3), (1, pal 5)] } fun x => { x with raCnt := 3 })
    shown 2 t = [pal 3, pal 5] ∧ (t.sec 0).raCnt = 0 ∧ t.rand.taken = 0 := by decide
/-- V-RO1, restricted. -/
theorem test_modeRandomOne :
    let t := after .modeRandomOne (boot 4 #v[6, 1, 1, 1] [2, 1])
    shown 4 t = [Color.black, Color.black, pal 1, Color.black] ∧ (t.sec 0).roLast = 2 := by decide
/-- V-RO1, unrestricted. -/
theorem test_modeRandomOne_unrestricted :
    shown 2 (after .modeRandomOne (State.afterReset { cfg 4 #v[6, 1, 1, 1] with restrictRandom := false } [] ⟨[0, 10, 20, 30], 0, true⟩ true)) =
      [⟨10, 20, 30⟩, Color.black] := by decide
/-- V-RD1. -/
theorem test_modeRaindrops :
    let t := after .modeRaindrops (upd (boot 2 #v[7, 1, 1, 1] [1, 2]) fun x => { x with rdCol := [⟨255, 5, 10⟩, Color.black] })
    shown 2 t = [⟨255, 5, 10⟩, ⟨0, 0, 255⟩] ∧ (t.sec 0).rdCol = [⟨245, 0, 0⟩, ⟨0, 0, 245⟩] := by decide
/-- V-FF3, frame 4. -/
theorem test_modeFireflies :
    let t := after .modeFireflies (upd (boot 4 #v[9, 1, 1, 1] []) fun x =>
      { x with ffCol := [pal 0, pal 1, pal 2, Color.black], ffPhase := [.fadeIn, .fadeIn, .fadeIn, .off],
               ffBri := [100, 50, 0, 0], ffActive := [0, 1, 2] })
    shown 4 t = [⟨150, 0, 0⟩, ⟨0, 100, 0⟩, ⟨0, 0, 50⟩, Color.black] ∧ (t.sec 0).ffBri = [150, 100, 50, 0] ∧ t.rand.taken = 0 := by decide
/-- V-FF2, frame 16: removed and spawned again. -/
theorem test_modeFireflies_respawn :
    let t := after .modeFireflies (upd (boot 1 #v[9, 1, 1, 1] [1, 0, 1]) fun x =>
      { x with ffCol := [pal 0], ffPhase := [.fadeOut], ffBri := [15], ffActive := [0] })
    (t.sec 0).ffPhase = [.fadeIn] ∧ (t.sec 0).ffBri = [0] ∧ (t.sec 0).ffCol = [pal 1] ∧ (t.sec 0).ffActive = [0] := by decide
/-- V-RF2, frame 1. -/
theorem test_modeTwinkle :
    let t := after .modeTwinkle (boot 4 #v[8, 1, 1, 1] [0, 1, 2, 3, 0, 4, 0, 5, 1, 6])
    shown 4 t = [⟨255, 0, 12⟩, ⟨0, 255, 12⟩, ⟨0, 0, 255⟩, ⟨255, 255, 12⟩] ∧
    (t.sec 0).rfFs = [19, 19, 0, 19] ∧ (t.sec 0).rfTgt = [pal 4, pal 5, pal 2, pal 6] := by decide
/-- V-RF2 with RF_PICK_EXACT false. -/
theorem test_modeTwinkle_no_pick :
    let t := after .modeTwinkle (State.afterReset { cfg 4 #v[8, 1, 1, 1] with rfPickExact := false } [] ⟨[0, 1, 2, 3, 0], 0, true⟩ true)
    shown 4 t = [pal 0, pal 1, pal 2, pal 3] ∧ (t.sec 0).rfFs = [0, 0, 0, 0] := by decide
/-- V-DS1, frame 6: the last pass lands and the colours swap. -/
theorem test_modeDropAndStack :
    let t := after .modeDropAndStack (upd { boot 3 #v[10, 1, 1, 1] [] with fb := [(0, pal 0), (1, pal 2), (2, pal 0)] } fun x =>
      { x with dsPos := 1, dsRun := 2 })
    shown 3 t = [pal 0, pal 0, pal 2] ∧ (t.sec 0).dsCi = 1 ∧ (t.sec 0).dsPos = -1 ∧ (t.sec 0).dsRun = 1 := by decide
/-- V-DS2, frame 2 (`L = 1`). -/
theorem test_modeDropAndStack_one :
    let t := after .modeDropAndStack (upd { boot 1 #v[10, 1, 1, 1] [] with fb := [(0, pal 2)] } fun x => { x with dsPos := 0, dsRun := 1 })
    shown 1 t = [pal 0] ∧ (t.sec 0).dsPos = -1 ∧ (t.sec 0).dsRun = 0 ∧ (t.sec 0).dsCi = 1 := by decide

/-- V-CU1. -/
theorem test_wheel : wheel 84 = ⟨252, 3, 0⟩ ∧ wheel 128 = ⟨126, 0, 129⟩ ∧ wheel 254 = ⟨0, 252, 3⟩ := by decide
/-- V-CU2. -/
theorem test_applyBrightness :
    applyBrightness ⟨255, 100, 7⟩ 1 2 = ⟨127, 50, 3⟩ ∧ applyBrightness ⟨100, 100, 100⟩ 29 100 = ⟨29, 29, 29⟩ := by decide
/-- V-CU5. -/
theorem test_pack : pack .grbMsb ⟨1, 2, 3⟩ = 0x02010300 ∧ pack .rgbLsb ⟨1, 2, 3⟩ = 0x00010203 := by decide
/-- V-RF3: rounding toward negative infinity. -/
theorem test_lerp : lerp ⟨15, 0, 0⟩ ⟨10, 0, 0⟩ 1 20 = ⟨14, 0, 0⟩ ∧ lerp ⟨10, 0, 0⟩ ⟨15, 0, 0⟩ 1 20 = ⟨10, 0, 0⟩ := by decide

/-! ### Witnesses: for each statement with hypotheses, inputs that meet all of them, clause by clause -/

/-- A state that runs: two pixels a section, every kind of mode, a non-empty framebuffer. -/
def good : State := { boot 2 #v[1, 8, 9, 10] [1, 0, 5, 0, 0, 1] with fb := [(1, pal 2), (7, pal 3)] }

/-- `good` in Selecting state. -/
def selecting : State := { good with sel := ⟨true, 3, 0⟩ }

/-- `s` with one command word on the port. -/
def withWord (w : Word) (s : State) : State := { s with cmds := [w] }

theorem test_witness_good : good.Good ∧ good.Canonical ∧ good.Served ∧ good.Safe := by decide
theorem test_witness_selecting : selecting.Good ∧ selecting.Canonical ∧ selecting.sel.selecting = true := by decide

/-- CommandWordDecodesByItsFields: `OP = 6`, `RSVD = 1`, and the highest legal word. -/
theorem test_witness_commandWord :
    (¬ ((0x60000000 : Word).extractLsb' 0 28 = 0 ∧ ((0x60000000 : Word).extractLsb' 28 4).toNat < 6)) ∧
    (¬ ((0x10000001 : Word).extractLsb' 0 28 = 0 ∧ ((0x10000001 : Word).extractLsb' 28 4).toNat < 6)) ∧
    ((0x50000000 : Word).extractLsb' 0 28 = 0 ∧ ((0x50000000 : Word).extractLsb' 28 4).toNat < 6) ∧
    (withWord 0x60000000 good).TakesCommand 0x60000000 [] := by decide

/-- ModeTagsFollowTheModeList: both sides of the boundary at 12. -/
theorem test_witness_modeTags :
    modeList[(11 : BitVec 4).toNat]? = some .modeChase ∧ (11 : BitVec 4).toNat < 12 ∧ 12 ≤ (12 : BitVec 4).toNat := by decide

/-- DecodeUndoesEncode. -/
theorem test_witness_wf : Instr.cursor.wf = true ∧ Instr.modeChase.wf = true := by decide

/-- StepRunsTheDecodedInstruction: a command; a kernel of section 0 and of section 3. -/
theorem test_witness_step :
    let s := withWord 0x10000000 good
    s.TakesCommand 0x10000000 [] ∧ s.Served ∧ Instr.frame.wf = true ∧ decode (.command 0x10000000) = .instr .frame := by decide
theorem test_witness_step_in_frame :
    let a := { good with inFrame := true }
    let b := { good with inFrame := true, frameSec := 3 }
    (a.rst = none ∧ a.faultValid = false ∧ a.Served ∧ decode (.tag (a.sec a.frameSec).mode) = .instr .modeSolidColor ∧
      exec .modeSolidColor a = .next (after .modeSolidColor a)) ∧
    (b.rst = none ∧ b.faultValid = false ∧ b.Served ∧ decode (.tag (b.sec b.frameSec).mode) = .instr .modeDropAndStack ∧
      exec .modeDropAndStack b = .next (after .modeDropAndStack b) ∧ b.frameSec = 3) := ⟨⟨rfl, rfl, ⟨rfl, rfl⟩, rfl, rfl⟩, rfl, rfl, ⟨rfl, rfl⟩, rfl, rfl, rfl⟩

/-- UnservedBlockEmitsAndDrawsNothing: a driver that is not ready, a source that does not answer, both kinds of FRAME. -/
theorem test_witness_unserved :
    let s := withWord 0x10000000 { good with driverReady := false, rand := { good.rand with answering := false } }
    let u := withWord 0x10000000 { selecting with driverReady := false }
    step s = .next (stepped s) ∧ s.rst = none ∧ s.driverReady = false ∧ s.rand.answering = false ∧
    s.TakesCommand 0x10000000 [] ∧ (∀ k, (s.sec k).mode < 12) ∧ u.TakesCommand 0x10000000 [] ∧ u.sel.selecting = true :=
  ⟨rfl, rfl, rfl, rfl, ⟨rfl, rfl, rfl, rfl⟩, by decide, ⟨rfl, rfl, rfl, rfl⟩, rfl⟩

/-- UnservedBlockEmitsAndDrawsNothing: a command and a stepped kernel that would draw or emit, and a section in RandomOne and in
Raindrops. -/
theorem test_witness_unserved_waits :
    let silent := { boot 1 #v[6, 1, 1, 7] [0, 0, 0, 0] with rand := ⟨[0, 0, 0, 0], 0, false⟩ }
    let s := withWord 0x10000000 silent
    let a := { silent with inFrame := true }
    let b := { silent with inFrame := true, frameSec := 3, driverReady := false }
    (s.TakesCommand 0x10000000 [] ∧ decode (.command 0x10000000) = .instr .frame ∧ s.sel.selecting = false ∧
      (∀ k, (s.sec k).mode < 12) ∧ (s.sec 0).mode = 6 ∧ (s.sec 3).mode = 7 ∧ s.rand.answering = false ∧
      (after .frame silent).rand ≠ s.rand ∧ (after .frame silent).trace ≠ s.trace) ∧
    (a.rst = none ∧ a.faultValid = false ∧ decode (.tag (a.sec a.frameSec).mode) = .instr .modeRandomOne ∧
      (after .modeRandomOne a).rand ≠ a.rand) ∧
    (b.rst = none ∧ b.faultValid = false ∧ decode (.tag (b.sec b.frameSec).mode) = .instr .modeRaindrops ∧
      b.driverReady = false ∧ b.frameSec = 3) := by decide

/-- HaltedBlockTakesNoStep. -/
theorem test_witness_halted :
    let s := { good with fault := 9, faultInfo := 0x60000000 }
    s.rst = none ∧ s.faultValid = true ∧ ({ s with rst := some Config.default }).rst = some Config.default ∧
    Config.default.legal = true := by decide

/-- FaultsArePrecise: an illegal word, and a reserved tag at a FRAME and inside one. -/
theorem test_witness_faults :
    let a := withWord 0x60000000 good
    let b := withWord 0x10000000 (boot 1 #v[1, 1, 15, 12] [])
    let c := { boot 1 #v[1, 1, 1, 12] [] with inFrame := true, frameSec := 3 }
    (step a = .next (stepped a) ∧ a.rst = none ∧ a.faultValid = false ∧ (stepped a).faultValid = true) ∧
    (step b = .next (stepped b) ∧ b.rst = none ∧ b.faultValid = false ∧ (stepped b).faultValid = true) ∧
    (step c = .next (stepped c) ∧ c.rst = none ∧ c.faultValid = false ∧ (stepped c).faultValid = true) :=
  ⟨⟨rfl, rfl, rfl, rfl⟩, ⟨rfl, rfl, rfl, rfl⟩, ⟨rfl, rfl, rfl, rfl⟩⟩

/-- ResetLoadsEveryResetValue, ResetRejectsAnIllegalConfiguration, InvariantHoldsAtReset. -/
theorem test_witness_reset :
    let c := { Config.default with width := 3 }
    ({ good with rst := some Config.default }).rst = some Config.default ∧ Config.default.legal = true ∧
    ({ good with rst := some c }).rst = some c ∧ c.legal = false := by decide

/-- EveryStepKeepsTheInvariant: a running block, and a rejected one. -/
theorem test_witness_inv :
    let s := withWord 0x10000000 good
    let r := stepped { good with rst := some { Config.default with width := 3 } }
    s.Inv ∧ step s = .next (stepped s) ∧ r.Rejected ∧ step r = .next r := by
  refine ⟨?_, rfl, ?_, rfl⟩ <;> decide

/-- EveryInstructionKeepsTheFramebufferCanonical, SharedRegistersHaveTheirOneWriter, TraceAndCursorAreNeverRead,
PerModeRegistersAreKept: a FRAME and a control command that run. -/
theorem test_witness_exec :
    good.Canonical ∧ exec .frame good = .next (after .frame good) ∧ exec .button2 good = .next (after .button2 good) ∧
    Instr.button2 ∈ [Instr.nop, .toggleSelect, .button2, .nextMode, .cursor] ∧ Instr.frame ≠ .nextMode ∧
    Instr.frame ≠ .button2 ∧ Instr.frame ≠ .toggleSelect ∧ Instr.button2 ≠ .frame :=
  ⟨by decide, rfl, rfl, by decide, by decide, by decide, by decide, by decide⟩

/-- PerModeRegistersAreKept: each clause has a section that is not in its mode. -/
theorem test_witness_other_modes :
    (good.sec 0).mode ≠ 3 ∧ (good.sec 0).mode ≠ 4 ∧ (good.sec 0).mode ≠ 5 ∧ (good.sec 0).mode ≠ 6 ∧ (good.sec 0).mode ≠ 7 ∧
    (good.sec 0).mode ≠ 8 ∧ (good.sec 0).mode ≠ 9 ∧ (good.sec 0).mode ≠ 10 ∧ (good.sec 0).mode ≠ 11 := by decide

/-- OnlyFrameEmitsAndEmitsOneWholeFrame. -/
theorem test_witness_emits :
    selecting.sel.selecting = true ∧ (∀ k, (good.sec k).mode < 12) ∧ Instr.nop ≠ .frame ∧ exec .nop good = .next good :=
  ⟨rfl, by decide, by decide, rfl⟩

/-- ButtonTwoSelectsOrCycles, NextModeAdvancesAndClears, TwelveNextModesReturn: Selecting; Normal with SolidColor, SolidPattern and
another mode; another section than the selected one. -/
theorem test_witness_buttons :
    let a := boot 2 #v[1, 1, 1, 1] []
    let b := boot 2 #v[2, 1, 1, 1] []
    let c := boot 2 #v[11, 1, 1, 1] []
    selecting.sel.selecting = true ∧ a.sel.selecting = false ∧ (a.sec a.sel.sect).mode = 1 ∧ (b.sec b.sel.sect).mode = 2 ∧
    (c.sec c.sel.sect).mode ≠ 1 ∧ (c.sec c.sel.sect).mode ≠ 2 ∧ (3 : Fin 4) ≠ a.sel.sect ∧ c.Canonical ∧
    (c.sec c.sel.sect).mode < 12 ∧ 1 < (b.sec b.sel.sect).pattern.length := by decide

/-- CycleColorRotatesThePalette: a legal palette, a colour that is no entry, two equal images. -/
theorem test_witness_cycle :
    Config.default.legal = true ∧ (∀ j : BitVec 3, Config.default.pal j ≠ ⟨1, 2, 3⟩) ∧
    cycleColor Config.default (pal 7) = cycleColor Config.default (pal 7) := by decide

/-- NormalFrameRunsTheKernelsThenRenders, FrameCommandEqualsTheSteppedLoop, DispatchRunsTheRowOfTheTag. -/
theorem test_witness_normal_frame :
    good.sel.selecting = false ∧ (∀ k, (good.sec k).mode < 12) ∧ good.rst = none ∧ good.faultValid = false ∧
    good.inFrame = false ∧ good.frameSec = 0 ∧ good.Served ∧ decode (.tag (good.sec 3).mode) = .instr .modeDropAndStack := by decide

/-- NormalFrameRefusesAReservedTag: section 2 is the lowest of two, and section 0. -/
theorem test_witness_reserved_tag :
    let s := boot 1 #v[1, 1, 13, 12] []
    let u := boot 1 #v[12, 1, 1, 15] []
    s.sel.selecting = false ∧ 12 ≤ (s.sec 2).mode ∧ (∀ j, j < (2 : Fin 4) → (s.sec j).mode < 12) ∧
    u.sel.selecting = false ∧ 12 ≤ (u.sec 0).mode ∧ (∀ j, j < (0 : Fin 4) → (u.sec j).mode < 12) := by decide

/-- OffErasesTheLowerSections, KernelsWriteOnlyTheirSection. -/
theorem test_witness_off :
    let s := boot 2 #v[1, 1, 1, 0] []
    s.Good ∧ s.sel.selecting = false ∧ (s.sec 3).mode = 0 ∧ 0 < s.cfg.sectionStart 3 ∧
    Instr.modeChase ∈ modeList ∧ Instr.modeChase ≠ .modeOff ∧ exec .modeChase s = .next (after .modeChase s) ∧
    ¬ InSection s.cfg s.frameSec 2 ∧ InSection s.cfg s.frameSec 1 :=
  ⟨by decide, rfl, rfl, by decide, by decide, by decide, rfl, by decide, by decide⟩

/-- The kernels: the hypotheses on the framebuffer, the section length and the index registers, at the highest index. -/
theorem test_witness_kernels :
    let s := upd (boot 2 #v[4, 1, 1, 1] []) fun x => { x with sccIdx := 1, raCnt := 3 }
    s.Canonical ∧ 0 < s.cfg.sectionLen ∧ (s.sec s.frameSec).sccIdx < s.cfg.sectionLen ∧
    (s.view 0).sec.sccIdx < s.cfg.sectionLen ∧ (s.view 0).sec.raCnt < s.cfg.recolourPeriod ∧ 1 < s.cfg.recolourPeriod ∧
    (s.sec s.frameSec).rdCol.length = s.cfg.sectionLen ∧ (s.sec s.frameSec).raCnt ≠ 0 ∧ (good.sec good.frameSec).raCnt = 0 ∧
    0 < s.cfg.patternLen ∧ (s.sec s.frameSec).pattern.length = s.cfg.patternLen ∧ ¬ InSection s.cfg s.frameSec 2 ∧
    (s.sec s.frameSec).FirefliesInv s.cfg.sectionLen ∧ (s.sec s.frameSec).FadeInv s.cfg.sectionLen := by decide

/-- SingleColorChaseHasPeriodEightL: a pair of each end. -/
theorem test_witness_period : (1 : Nat) < (cfg 2 #v[4, 1, 1, 1]).sectionLen ∧ (0 : Nat) < (cfg 2 #v[4, 1, 1, 1]).sectionLen := by decide

/-- ChasePlacesEightColours: with `L = 10` and index 5, offset 2 shows the last colour and nothing overwrites it, offset 3 none;
index 20 lies in no part of section 0. -/
theorem test_witness_chase :
    let s := upd (boot 10 #v[11, 1, 1, 1] []) fun x => { x with chIdx := 5 }
    s.Canonical ∧ ((s.sec s.frameSec).chIdx + (7 : BitVec 3).toNat) % s.cfg.sectionLen = 2 ∧
    (∀ j' : BitVec 3, 7 < j' → ((s.sec s.frameSec).chIdx + j'.toNat) % s.cfg.sectionLen ≠ 2) ∧
    (∀ j : BitVec 3, ((s.sec s.frameSec).chIdx + j.toNat) % s.cfg.sectionLen ≠ 3) ∧ ¬ InSection s.cfg s.frameSec 20 := by decide

/-- RandomColoursTakeTheirDraws. -/
theorem test_witness_draws :
    (0 : Nat) < 8 ∧ (7 : Nat) < 8 ∧ Config.default.restrictRandom = true ∧
    ({ Config.default with restrictRandom := false }).restrictRandom = false := by decide

/-- FirefliesAdvanceEachActivePixel: a pixel at the last fade-in step, one at the last fade-out step, an inactive one. -/
theorem test_witness_fireflies_advance :
    let x := (upd (boot 3 #v[9, 1, 1, 1] []) fun x =>
      { x with ffPhase := [.fadeIn, .fadeOut, .off], ffBri := [250, 15, 0], ffActive := [0, 1] }).sec 0
    x.FirefliesInv 3 ∧ (0 ∈ x.ffActive ∧ x.ffPhase.getD 0 .off = .fadeIn) ∧ (1 ∈ x.ffActive ∧ x.ffPhase.getD 1 .off ≠ .fadeIn) ∧
    2 ∉ x.ffActive := by decide

/-- FirefliesSpawnAtMostOne: three active; fewer and `go = 0`; fewer and none off; fewer and one spawned. -/
theorem test_witness_fireflies_spawn :
    let a := upd (boot 4 #v[9, 1, 1, 1] []) fun x =>
      { x with ffPhase := [.fadeIn, .fadeIn, .off, .fadeOut], ffBri := [0, 250, 0, 255], ffActive := [0, 1, 3] }
    let b := boot 4 #v[9, 1, 1, 1] [0]
    let c := upd (boot 1 #v[9, 1, 1, 1] [1]) fun x => { x with ffPhase := [.fadeIn], ffActive := [0] }
    let d := boot 4 #v[9, 1, 1, 1] [1, 3, 7]
    ((a.sec 0).FirefliesInv a.cfg.sectionLen ∧ 3 ≤ (a.sec 0).ffActive.length) ∧
    ((b.sec 0).FirefliesInv b.cfg.sectionLen ∧ (b.sec 0).ffActive.length < 3 ∧ b.rand.raw 0 % 2 ≠ 1) ∧
    ((c.sec 0).FirefliesInv c.cfg.sectionLen ∧ (c.sec 0).ffActive.length < 3 ∧ (c.sec 0).ffActive.length = c.cfg.sectionLen) ∧
    ((d.sec 0).FirefliesInv d.cfg.sectionLen ∧ (d.sec 0).ffActive.length < 3 ∧ d.rand.raw 0 % 2 = 1 ∧
      (d.sec 0).ffActive.length < d.cfg.sectionLen) := by decide

/-- TwinkleSeedsABlackSection: a section with one lit pixel, a black one, and an index outside it. -/
theorem test_witness_seed :
    let a := { boot 2 #v[8, 1, 1, 1] [] with fb := [(1, pal 2)] }
    let b := { boot 2 #v[8, 1, 1, 1] [] with fb := [(2, pal 2)] }
    (Memory.wf a.cfg.pixels (a.view 0).fb = true ∧ ∃ o < a.cfg.sectionLen, readSection a.cfg 0 (a.view 0).fb o ≠ Color.black) ∧
    (Memory.wf b.cfg.pixels (b.view 0).fb = true ∧ ∀ o < b.cfg.sectionLen, readSection b.cfg 0 (b.view 0).fb o = Color.black) ∧
    ¬ InSection b.cfg 0 2 := by decide

/-- TwinklePicksDistinctEligiblePixels: two eligible pixels, with RF_PICK_EXACT true and false; after pixel 0 is picked, pixel 2
is left; pixel 1 is never picked. -/
theorem test_witness_pick :
    let s := upd (boot 4 #v[8, 1, 1, 1] []) fun x => { x with rfFs := [0, 20, 0, 1] }
    eligibleWithout 4 (s.sec 0) [] = [0, 2] ∧ eligibleWithout 4 (s.sec 0) [0] = [2] ∧ [0, 2][1]? = some 2 ∧ 1 ∉ [0, 2] ∧
    (s.view 0).sec.FadeInv s.cfg.sectionLen ∧ s.cfg.rfPickExact = true ∧ ({ s.cfg with rfPickExact := false }).rfPickExact = false := by decide

/-- A pixel of Twinkle at the start of the frame that picks it (V-RF1, on a section that is already lit). -/
def fading : KernelView :=
  ({ upd (boot 1 #v[8, 1, 1, 1] [0, 0]) (fun x => { x with rfTgt := [pal 2] }) with fb := [(0, pal 2)] }).view 0

/-- RandomFadeReachesItsTargetInTwentyFrames. -/
theorem test_witness_fade :
    let c := cfg 1 #v[8, 1, 1, 1]
    Memory.wf c.pixels fading.fb = true ∧ 0 < c.sectionLen ∧ (rfPick c fading).sec.rfFs.getD 0 0 = 20 ∧
    pal 0 = (rfPick c fading).sec.rfTgt.getD 0 Color.black ∧
    ∀ n < 20, ∃ i < c.sectionLen, readSection c 0 ((kernelTwinkle c 0)^[n] fading).fb i ≠ Color.black := by decide

/-- DropAndStackFillsFallsAndLands: the fill frame; a falling frame; a landing that starts a pass; one that ends the cycle. -/
theorem test_witness_stack :
    let at_ (pos : Int) (run : Nat) : State := upd (boot 3 #v[10, 1, 1, 1] []) fun x => { x with dsPos := pos, dsRun := run }
    ((at_ (-1) 3).Canonical ∧ 0 < (at_ (-1) 3).cfg.sectionLen ∧ ((at_ (-1) 3).sec 0).StackInv 3 ∧ ((at_ (-1) 3).sec 0).dsPos = -1) ∧
    (((at_ 2 3).sec 0).StackInv 3 ∧ ((at_ 2 3).sec 0).dsPos ≠ -1 ∧ ((at_ 2 3).sec 0).dsPos ≠ 3 - ((at_ 2 3).sec 0).dsRun) ∧
    (((at_ 0 3).sec 0).StackInv 3 ∧ ((at_ 0 3).sec 0).dsPos = 3 - ((at_ 0 3).sec 0).dsRun ∧ 1 < ((at_ 0 3).sec 0).dsRun - 1) ∧
    (((at_ 1 2).sec 0).StackInv 3 ∧ ((at_ 1 2).sec 0).dsPos = 3 - ((at_ 1 2).sec 0).dsRun ∧ ((at_ 1 2).sec 0).dsRun - 1 ≤ 1) := by decide

/-- DropAndStackCycleLength: `L = 1` and `L = 3`. -/
theorem test_witness_cycle_length :
    let a := boot 1 #v[10, 1, 1, 1] []
    let b := boot 3 #v[10, 1, 1, 1] []
    (Memory.wf a.cfg.pixels (a.view 0).fb = true ∧ (a.view 0).sec.dsPos = -1 ∧ a.cfg.sectionLen = 1 ∧ (2 : Nat) = 2) ∧
    (Memory.wf b.cfg.pixels (b.view 0).fb = true ∧ (b.view 0).sec.dsPos = -1 ∧ 2 ≤ b.cfg.sectionLen ∧
      6 = b.cfg.sectionLen * (b.cfg.sectionLen + 1) / 2) := by decide

/-- BrightnessScalerFloorsEachChannel, InterpolationStaysBetweenItsEnds: inside, at `num = den`, at `num = 0`. -/
theorem test_witness_ratio : (1 ≤ 20 ∧ 7 ≤ 20) ∧ (1 ≤ 20 ∧ 20 ≤ 20) ∧ (1 ≤ 20 ∧ 0 ≤ 20) := by decide

/-- WheelHasThreeContinuousBands: both ends of each range. -/
theorem test_witness_wheel : (255 < 256 ∧ ¬ 255 < 170) ∧ (254 < 255) ∧ (84 < 85) ∧ (169 < 170 ∧ ¬ 169 < 85) := by decide

/-- RegistersFitTheirWidths: a running state, a reset that is accepted and one that is not, a width that is enough. -/
theorem test_witness_widths :
    good.Good ∧ ({ good with rst := some { Config.default with width := 3 } }).rst = some { Config.default with width := 3 } ∧
    Config.default.legal = true ∧ Config.default.sectionLen - 1 < 2 ^ 1 ∧ Config.default.recolourPeriod ≤ 2 ^ 2 := by decide

end Sys2Proof.Tests
end

section
/-! What one instruction leaves unchanged, what a FRAME that raises no fault renders, and the events of an instruction (20_memory.md R82). -/

namespace Sys2Proof.Machine

/-! ### Instructions other than FRAME -/

/-- A kernel row changes only the sections, the framebuffer and the random source. -/
theorem exec_kernel_unchanged {i : Instr} {s t : State} (hi : i ∈ modeList) (h : exec i s = .next t) :
    t = { s with secs := t.secs, fb := t.fb, rand := t.rand } := by
  obtain ⟨_, f, _, _, _, hk⟩ := exec_kernel hi s
  cases hk.symm.trans h
  exact State.runKernel_frame f s.frameSec s

/-- Everything an instruction other than FRAME can change: the sections, the framebuffer, the selection and the random source. -/
theorem exec_ne_frame_unchanged {i : Instr} {s t : State} (hi : i ≠ .frame) (h : exec i s = .next t) :
    t = { s with secs := t.secs, fb := t.fb, sel := t.sel, rand := t.rand } := by
  cases i
  case frame => exact absurd rfl hi
  case nop | cursor | toggleSelect => cases h; rfl
  case button2 => simp only [exec, execButton2] at h; split at h <;> cases h <;> rfl
  case nextMode => simp only [exec, execNextMode] at h; split at h <;> cases h <;> rfl
  all_goals rw [exec_kernel_unchanged (by decide) h]

/-! ### The section loop of FRAME -/

/-- Two changes of sections, framebuffer and random source, one after the other, are one. -/
theorem State.frame_trans {s t u : State} (hst : t = { s with secs := t.secs, fb := t.fb, rand := t.rand })
    (htu : u = { t with secs := u.secs, fb := u.fb, rand := u.rand }) :
    u = { s with secs := u.secs, fb := u.fb, rand := u.rand } :=
  htu.trans (by rw [hst])

/-- The four kernels change only the sections, the framebuffer and the random source. -/
theorem State.runSections_frame (s : State) :
    s.runSections = { s with secs := s.runSections.secs, fb := s.runSections.fb, rand := s.runSections.rand } :=
  have h01 := State.frame_trans (s.dispatch_frame 0) ((s.dispatch 0).dispatch_frame 1)
  have h02 := State.frame_trans h01 (((s.dispatch 0).dispatch 1).dispatch_frame 2)
  State.frame_trans h02 ((((s.dispatch 0).dispatch 1).dispatch 2).dispatch_frame 3)

/-! ### FRAME -/

theorem exec_frame_selecting {s : State} (h : s.sel.selecting = true) : exec .frame s = .next s.overlay.render :=
  if_pos h

theorem exec_frame_normal {s : State} (h : s.sel.selecting = false) (hm : ∀ k, (s.sec k).mode < 12) :
    exec .frame s = .next s.runSections.render := by
  simp [exec, execFrame, h, State.badSection_none.mpr hm]

/-- In both states, a FRAME that passes the mode check renders a state in which only the sections, the framebuffer and the
random source can differ from before. -/
theorem exec_frame_renders {s : State} (h : s.sel.selecting = true ∨ ∀ k, (s.sec k).mode < 12) :
    ∃ u : State, exec .frame s = .next u.render ∧ u = { s with secs := u.secs, fb := u.fb, rand := u.rand } := by
  cases hs : s.sel.selecting with
  | true => exact ⟨s.overlay, exec_frame_selecting hs, rfl⟩
  | false =>
    have hm := h.resolve_left (by simp [hs])
    exact ⟨s.runSections, exec_frame_normal hs hm, s.runSections_frame⟩

/-- Settles O20: the first clause is the frame of the other instructions, the second the events of `render`. -/
theorem onlyFrameEmitsAndEmitsOneWholeFrame : Obligations.OnlyFrameEmitsAndEmitsOneWholeFrame := by
  unfold Obligations.OnlyFrameEmitsAndEmitsOneWholeFrame
  refine ⟨fun i s t hi h => congrArg (·.trace) (exec_ne_frame_unchanged hi h), fun s h => ?_⟩
  obtain ⟨u, hexec, hu⟩ := exec_frame_renders h
  have hcfg : u.cfg = s.cfg := congrArg (·.cfg) hu
  have hfault : u.fault = s.fault := congrArg (·.fault) hu
  have htrace : u.trace = s.trace := congrArg (·.trace) hu
  refine ⟨u.render, pixelWord u.cfg u.fb, hexec, hfault, ?_⟩
  rw [State.render_trace, htrace, ← hcfg]
  rfl

end Sys2Proof.Machine
end

section
/-! The mode tags against the ordered mode list, the walk of `nextMode` (30_encoding.md R104, R107), and the words of the pseudo-instructions (R112). -/

namespace Sys2Proof

open Sys2Proof.Machine

/-! ### Mode tags -/

/-- A tag decodes to the mode at its position in the list, and to no mode past the list's end. -/
theorem decodeTag_eq_modeList (t : BitVec 4) : decodeTag t = (modeList[t.toNat]?).elim .reservedTag .instr := by
  revert t; decide

theorem nextMode_toNat (t : BitVec 4) : (nextMode t).toNat = (t.toNat + 1) % 12 := by
  simp only [nextMode, BitVec.toNat_ofNat]
  omega

/-- From a tag below 12, `n` steps of `nextMode` add `n` modulo 12. -/
theorem nextMode_iterate_toNat {t : BitVec 4} (ht : t.toNat < 12) (n : Nat) :
    (nextMode^[n] t).toNat = (t.toNat + n) % 12 := by
  induction n with
  | zero => exact (Nat.mod_eq_of_lt ht).symm
  | succ n ih =>
    rw [Function.iterate_succ_apply', nextMode_toNat, ih]
    omega

/-- The walk closes after twelve steps. -/
theorem nextMode_iterate_twelve {t : BitVec 4} (ht : t.toNat < 12) : nextMode^[12] t = t := by
  apply BitVec.eq_of_toNat_eq
  rw [nextMode_iterate_toNat ht, Nat.add_mod_right, Nat.mod_eq_of_lt ht]

/-- Settles O2: decoding reads the mode list, and `nextMode` is the successor modulo its length. -/
theorem modeTagsFollowTheModeList : Obligations.ModeTagsFollowTheModeList := by
  unfold Obligations.ModeTagsFollowTheModeList
  refine fun t => ⟨fun i hi => ?_, fun ht => ?_, fun ht => ⟨nextMode_toNat t, nextMode_iterate_twelve ht⟩⟩
  · exact (decodeTag_eq_modeList t).trans (by rw [hi]; rfl)
  · have hnone : modeList[t.toNat]? = none := List.getElem?_eq_none ht
    exact (decodeTag_eq_modeList t).trans (by rw [hnone]; rfl)

/-! ### Command text -/

/-- A repeated command emits its one word that many times. -/
theorem flatten_replicate_commandWord {i : Instr} {w : Word} (h : encode i = .command w) (n : Nat) :
    (List.replicate n (commandWord i)).flatten = List.replicate n w := by
  have hword : commandWord i = [w] := by simp [commandWord, h]
  rw [hword, List.flatten_replicate_singleton]

/-- Settles O5: the counted lines repeat one command's word, the other lines are one word or none. -/
theorem assemblerEmitsTheExpansions : Obligations.AssemblerEmitsTheExpansions := by
  unfold Obligations.AssemblerEmitsTheExpansions
  exact ⟨flatten_replicate_commandWord (i := .frame) rfl, flatten_replicate_commandWord (i := .nextMode) rfl,
    rfl, rfl, rfl, rfl, fun _ => rfl⟩

end Sys2Proof
end

section
/-! The colour units without a draw: the brightness scaler, the wheel and the colour cycle (40_color_units.md R132, R134, R135, R138, R139). -/

namespace Sys2Proof.Machine

/-! ### Brightness scaler -/

/-- A factor of at most 1 does not raise a channel, so the quotient still fits the byte. -/
theorem channel_mul_div_le {num den : Nat} (h : num ≤ den) (ch : Nat) : ch * num / den ≤ ch :=
  Nat.div_le_of_le_mul (Nat.mul_comm den ch ▸ Nat.mul_le_mul_left ch h)

theorem scaleChannel_toNat {num den : Nat} (h : num ≤ den) (ch : Byte) :
    (scaleChannel ch num den).toNat = ch.toNat * num / den := by
  have hle := channel_mul_div_le h ch.toNat
  exact (BitVec.toNat_ofNat ..).trans (Nat.mod_eq_of_lt (hle.trans_lt ch.isLt))

theorem scaleChannel_le {num den : Nat} (h : num ≤ den) (ch : Byte) : scaleChannel ch num den ≤ ch := by
  rw [BitVec.le_def, scaleChannel_toNat h]
  exact channel_mul_div_le h ch.toNat

theorem scaleChannel_self {den : Nat} (h : 0 < den) (ch : Byte) : scaleChannel ch den den = ch := by
  apply BitVec.eq_of_toNat_eq
  rw [scaleChannel_toNat le_rfl, Nat.mul_div_cancel _ h]

theorem scaleChannel_zero (den : Nat) (ch : Byte) : scaleChannel ch 0 den = 0 := by
  simp [scaleChannel]

theorem applyBrightness_self {den : Nat} (h : 0 < den) (x : Color) : applyBrightness x den den = x := by
  simp only [applyBrightness, scaleChannel_self h]

theorem applyBrightness_zero (den : Nat) (x : Color) : applyBrightness x 0 den = Color.black := by
  simp only [applyBrightness, scaleChannel_zero, Color.black]

/-- Settles O56: the scaler works channel by channel, and a quotient by a factor of at most 1 fits the byte. -/
theorem brightnessScalerFloorsEachChannel : Obligations.BrightnessScalerFloorsEachChannel := by
  unfold Obligations.BrightnessScalerFloorsEachChannel
  intro x num den hden h
  refine ⟨scaleChannel_toNat h x.r, scaleChannel_toNat h x.g, scaleChannel_toNat h x.b,
    scaleChannel_le h x.r, scaleChannel_le h x.g, scaleChannel_le h x.b, ?_, ?_⟩
  · rintro rfl
    exact applyBrightness_self hden x
  · rintro rfl
    exact applyBrightness_zero den x

/-! ### Wheel

The formula of a band also gives the first colour of the next one, so each band is stated here with both of its ends, and
neighbouring positions always lie in one band. -/

theorem wheel_first_band {pos : Nat} (h : pos ≤ 85) :
    (wheel pos).r.toNat = 3 * pos ∧ (wheel pos).g.toNat = 255 - 3 * pos ∧ (wheel pos).b.toNat = 0 := by
  obtain rfl | hlt := h.eq_or_lt
  · decide
  · simp only [wheel, if_pos hlt, BitVec.ofNat_eq_ofNat, BitVec.toNat_ofNat, and_true]
    omega

theorem wheel_second_band {pos : Nat} (h : 85 ≤ pos) (h' : pos ≤ 170) :
    (wheel pos).r.toNat = 255 - 3 * (pos - 85) ∧ (wheel pos).g.toNat = 0 ∧ (wheel pos).b.toNat = 3 * (pos - 85) := by
  obtain rfl | hlt := h'.eq_or_lt
  · decide
  · simp only [wheel, if_neg h.not_gt, if_pos hlt, BitVec.ofNat_eq_ofNat, BitVec.toNat_ofNat, true_and]
    omega

theorem wheel_third_band {pos : Nat} (h : 170 ≤ pos) (h' : pos ≤ 255) :
    (wheel pos).r.toNat = 0 ∧ (wheel pos).g.toNat = 3 * (pos - 170) ∧ (wheel pos).b.toNat = 255 - 3 * (pos - 170) := by
  have h85 : ¬ pos < 85 := by omega
  simp only [wheel, if_neg h85, if_neg h.not_gt, BitVec.ofNat_eq_ofNat, BitVec.toNat_ofNat, true_and]
  omega

/-- Settles O57: each position and its neighbour lie in one band, where a channel is constant or moves by 3. -/
theorem wheelHasThreeContinuousBands : Obligations.WheelHasThreeContinuousBands := by
  unfold Obligations.WheelHasThreeContinuousBands
  refine ⟨fun pos hpos => ?_, fun pos hpos => ?_, by decide⟩
  · split
    next h =>
      obtain ⟨hr, hg, hb⟩ := wheel_first_band h.le
      rw [hr, hg, hb]
    next h =>
      split
      next h' =>
        obtain ⟨hr, hg, hb⟩ := wheel_second_band (not_lt.mp h) h'.le
        rw [hr, hg, hb]
      next h' =>
        obtain ⟨hr, hg, hb⟩ := wheel_third_band (not_lt.mp h') (Nat.le_of_lt_succ hpos)
        rw [hr, hg, hb]
  · obtain h | ⟨hlo, hhi⟩ | h : pos < 85 ∨ (85 ≤ pos ∧ pos < 170) ∨ 170 ≤ pos := by omega
    · have here := wheel_first_band h.le
      have after := wheel_first_band (pos := pos + 1) h
      omega
    · have here := wheel_second_band hlo hhi.le
      have after := wheel_second_band (pos := pos + 1) (Nat.le_succ_of_le hlo) hhi
      omega
    · have here := wheel_third_band h hpos.le
      have after := wheel_third_band (pos := pos + 1) (Nat.le_succ_of_le h) hpos
      omega

/-! ### Colour cycle -/

/-- A legal configuration has pairwise distinct palette entries (10_state.md R51). -/
theorem Config.pal_injective {c : Config} (h : c.legal = true) : Function.Injective c.pal := by
  intro i j hij
  have hnodup : c.palette.toList.Nodup := by
    simp only [Config.legal, Bool.and_eq_true, decide_eq_true_eq] at h
    tauto
  have hget : c.palette.toList[i.toNat]'(by simpa using i.isLt) = c.palette.toList[j.toNat]'(by simpa using j.isLt) := by
    simpa [Config.pal] using hij
  exact BitVec.eq_of_toNat_eq (hnodup.getElem_inj_iff.mp hget)

theorem mem_paletteIndices (j : BitVec 3) : j ∈ paletteIndices := by
  revert j; decide

/-- What `cycleColor` answers, whatever the palette: the entry after one that holds the colour, or entry 0 when none does. -/
theorem cycleColor_cases (c : Config) (x : Color) :
    (∃ j, c.pal j = x ∧ cycleColor c x = c.pal (j + 1)) ∨ ((∀ j, c.pal j ≠ x) ∧ cycleColor c x = c.pal 0) := by
  unfold cycleColor
  split
  next j hfind =>
    have hj : c.pal j = x := by simpa using List.find?_some hfind
    exact .inl ⟨j, hj, rfl⟩
  next hnone =>
    have hne (j : BitVec 3) : c.pal j ≠ x := by simpa using List.find?_eq_none.mp hnone j (mem_paletteIndices j)
    exact .inr ⟨hne, rfl⟩

theorem cycleColor_of_ne {c : Config} {x : Color} (hx : ∀ j, c.pal j ≠ x) : cycleColor c x = c.pal 0 := by
  obtain ⟨j, hj, -⟩ | ⟨-, h⟩ := cycleColor_cases c x
  · exact absurd hj (hx j)
  · exact h

/-- On distinct entries the entry found is the one asked for. -/
theorem cycleColor_pal {c : Config} (hinj : Function.Injective c.pal) (j : BitVec 3) :
    cycleColor c (c.pal j) = c.pal (j + 1) := by
  obtain ⟨i, hi, h⟩ | ⟨hne, -⟩ := cycleColor_cases c (c.pal j)
  · rw [h, hinj hi]
  · exact absurd rfl (hne j)

/-- `cycleColor` on the entries is the successor of the index, so its iterates are the iterates of the successor. -/
theorem cycleColor_iterate_pal {c : Config} (hinj : Function.Injective c.pal) (n : Nat) (j : BitVec 3) :
    (cycleColor c)^[n] (c.pal j) = c.pal ((· + 1)^[n] j) :=
  (Function.Semiconj.iterate_right (fun i => (cycleColor_pal hinj i).symm) n j).symm

theorem paletteIndex_iterate_eight (j : BitVec 3) : (· + 1)^[8] j = j := by
  revert j; decide

/-- Settles O26: the palette of a legal configuration is an injective image of the indices, which `cycleColor` rotates. -/
theorem cycleColorRotatesThePalette : Obligations.CycleColorRotatesThePalette := by
  unfold Obligations.CycleColorRotatesThePalette
  intro c hlegal
  have hinj := Config.pal_injective hlegal
  refine ⟨fun j => ⟨cycleColor_pal hinj j, ?_⟩, fun x => cycleColor_of_ne, fun i j hij => ?_⟩
  · rw [cycleColor_iterate_pal hinj, paletteIndex_iterate_eight]
  · rw [cycleColor_pal hinj, cycleColor_pal hinj] at hij
    exact congrArg c.pal (add_right_cancel (hinj hij))

end Sys2Proof.Machine
end

section
/-! The fill kernels: what each leaves in the framebuffer and in its section's registers (41_fill_kernels.md R160 to R166). -/

namespace Sys2Proof.Machine

/-! ### What a fill kernel paints -/

theorem read_kernelOff {c : Config} {v : KernelView} (h : Memory.wf c.pixels v.fb = true) (k : Fin 4) (i : Nat) :
    Memory.read (kernelOff c k v).fb i = Color.black :=
  congrArg (Memory.read · i) (fbClear_eq_nil h)

theorem read_kernelSolidColor {c : Config} {v : KernelView} (h : Memory.wf c.pixels v.fb = true) (k : Fin 4) (i : Nat) :
    Memory.read (kernelSolidColor c k v).fb i = if InSection c k i then v.sec.solid else Memory.read v.fb i :=
  read_fillSection h k _ i

theorem read_kernelSolidPattern {c : Config} {v : KernelView} (h : Memory.wf c.pixels v.fb = true) (k : Fin 4) (i : Nat) :
    Memory.read (kernelSolidPattern c k v).fb i =
      if InSection c k i then patternColor c v.sec (i - c.sectionStart k) else Memory.read v.fb i :=
  read_fillSection h k _ i

theorem read_kernelRainbow {c : Config} {v : KernelView} (h : Memory.wf c.pixels v.fb = true) (k : Fin 4) (i : Nat) :
    Memory.read (kernelRainbow c k v).fb i =
      if InSection c k i then wheel (rbPos c.sectionLen (i - c.sectionStart k) v.sec.rbStep.toNat)
      else Memory.read v.fb i :=
  read_fillSection h k _ i

/-- On a pattern of `PL >= 1` entries the remainder names an entry, so the default of `patternColor` is never painted. -/
theorem getElem?_pattern_mod {c : Config} {x : SectionRegs} (hpos : 0 < c.patternLen) (hlen : x.pattern.length = c.patternLen)
    (k : Nat) : x.pattern[k % c.patternLen]? = some (patternColor c x k) := by
  have hk : k % c.patternLen < x.pattern.length := (Nat.mod_lt k hpos).trans_eq hlen.symm
  rw [patternColor, List.getD_eq_getElem _ _ hk, List.getElem?_eq_getElem hk]

/-! ### What a kernel without draws leaves unchanged -/

/-- A kernel that takes no draw changes only the framebuffer and its section's registers. -/
theorem State.runKernel_of_rand_eq {f : Config → Fin 4 → KernelView → KernelView} {k : Fin 4} {s : State}
    (hrand : (f s.cfg k (s.view k)).rand = s.rand) :
    s.runKernel f k = { s with
      fb := (s.runKernel f k).fb
      secs := s.secs.set k (f s.cfg k (s.view k)).sec } := by
  rw [State.runKernel_frame, State.runKernel_rand, hrand, State.runKernel_secs]

/-- A kernel that also keeps its registers changes only the framebuffer. -/
theorem State.runKernel_of_sec_eq {f : Config → Fin 4 → KernelView → KernelView} {k : Fin 4} {s : State}
    (hrand : (f s.cfg k (s.view k)).rand = s.rand) (hsec : (f s.cfg k (s.view k)).sec = s.sec k) :
    s.runKernel f k = { s with fb := (s.runKernel f k).fb } := by
  rw [State.runKernel_of_rand_eq hrand, hsec, State.secs_set_self]

/-! ### The four instructions -/

/-- Settles O34: the clear empties the canonical framebuffer, and Off keeps registers and random source. -/
theorem offClearsTheWholeFramebuffer : Obligations.OffClearsTheWholeFramebuffer := by
  unfold Obligations.OffClearsTheWholeFramebuffer
  exact fun s hfb => ⟨s.runKernel kernelOff s.frameSec, rfl,
    read_kernelOff hfb s.frameSec, State.runKernel_of_sec_eq rfl rfl⟩

/-- Settles O35: the fill read back index by index, with the frame of a kernel that writes only the framebuffer. -/
theorem solidColorPaintsTheBoundColour : Obligations.SolidColorPaintsTheBoundColour := by
  unfold Obligations.SolidColorPaintsTheBoundColour
  exact fun s hfb => ⟨s.runKernel kernelSolidColor s.frameSec, rfl,
    read_kernelSolidColor hfb s.frameSec, State.runKernel_of_sec_eq rfl rfl⟩

/-- Settles O36: inside the section the fill paints the pattern's entry at the offset modulo `PL`, outside it nothing. -/
theorem solidPatternRepeatsThePattern : Obligations.SolidPatternRepeatsThePattern := by
  unfold Obligations.SolidPatternRepeatsThePattern
  intro s hfb hpos hlen
  have hread := read_kernelSolidPattern (v := s.view s.frameSec) hfb s.frameSec
  refine ⟨s.runKernel kernelSolidPattern s.frameSec, rfl, fun k hk => ?_, fun i hi => ?_, State.runKernel_of_sec_eq rfl rfl⟩
  · have hin : InSection s.cfg s.frameSec (s.cfg.sectionStart s.frameSec + k) := ⟨Nat.le_add_right .., Nat.add_lt_add_left hk _⟩
    rw [State.runKernel_fb, hread, if_pos hin, Nat.add_sub_cancel_left]
    exact getElem?_pattern_mod hpos hlen k
  · exact (hread i).trans (if_neg hi)

/-- Settles O37: the fill reads the step of the view before the kernel, and the register's addition wraps at 256. -/
theorem rainbowPaintsThenAdvances : Obligations.RainbowPaintsThenAdvances := by
  unfold Obligations.RainbowPaintsThenAdvances
  intro s hfb
  have hsec : (s.runKernel kernelRainbow s.frameSec).sec s.frameSec =
      { s.sec s.frameSec with rbStep := (s.sec s.frameSec).rbStep + 1 } := by simp
  refine ⟨s.runKernel kernelRainbow s.frameSec, rfl, read_kernelRainbow hfb s.frameSec, ?_, ?_⟩
  · rw [hsec]
    exact BitVec.toNat_add ..
  · rw [hsec]
    exact State.runKernel_of_rand_eq rfl

end Sys2Proof.Machine
end

section
/-! The chase kernels: the pixels each paints, and SingleColorChase's index pair as the counter it is (42_chase_kernels.md R180 to R183). -/

namespace Sys2Proof.Machine

/-- An offset below `L` names an index of the section (00_scope.md R16). -/
theorem inSection_add {c : Config} (k : Fin 4) {o : Nat} (ho : o < c.sectionLen) : InSection c k (c.sectionStart k + o) :=
  ⟨Nat.le_add_right .., Nat.add_lt_add_left ho _⟩

/-- A write at an offset of the section is never dropped. -/
theorem read_fbWrite_inSection {c : Config} {fb : FrameBuffer} (h : Memory.wf c.pixels fb = true) (k : Fin 4) {o : Nat}
    (ho : o < c.sectionLen) (x : Color) (i : Nat) :
    Memory.read (fbWrite c.pixels fb (c.sectionStart k + o) x) i = if i = c.sectionStart k + o then x else Memory.read fb i := by
  have hlt : c.sectionStart k + o < c.pixels := (inSection_add k ho).2.trans_le (sectionEnd_le c k)
  simp only [read_fbWrite h, hlt, and_true]

/-! ### SingleColorChase: one frame -/

theorem read_kernelSingleColorChase {c : Config} {v : KernelView} (h : Memory.wf c.pixels v.fb = true) (k : Fin 4)
    (hidx : v.sec.sccIdx < c.sectionLen) (i : Nat) :
    Memory.read (kernelSingleColorChase c k v).fb i =
      if i = c.sectionStart k + v.sec.sccIdx then c.pal v.sec.sccPal
      else if InSection c k i then Color.black else Memory.read v.fb i := by
  rw [kernelSingleColorChase, read_fbWrite_inSection (fillSection_wf h k _) k hidx, read_fillSection h]

/-- Settles O38: one write on top of the black fill, and the two registers of `kernelSingleColorChase_sec`. -/
theorem singleColorChaseLightsOnePixel : Obligations.SingleColorChaseLightsOnePixel := by
  unfold Obligations.SingleColorChaseLightsOnePixel
  intro s hfb hidx
  refine ⟨s.runKernel kernelSingleColorChase s.frameSec, rfl,
    read_kernelSingleColorChase (v := s.view s.frameSec) hfb s.frameSec hidx, ?_, ?_, ?_⟩
  · simp
  · rw [State.runKernel_sec, if_pos rfl, kernelSingleColorChase_sec, State.view_sec, apply_ite BitVec.toNat, BitVec.toNat_add]
    rfl
  · rw [State.runKernel_sec, if_pos rfl]
    exact State.runKernel_of_rand_eq rfl

/-! ### SingleColorChase: the period -/

/-- The pair `(scc_idx, scc_pal)` as one number, the index as the low digit (42_chase_kernels.md R181). -/
def chaseCount (len : Nat) (x : SectionRegs) : Nat := len * x.sccPal.toNat + x.sccIdx

theorem chaseCount_lt {len : Nat} {x : SectionRegs} (h : x.sccIdx < len) : chaseCount len x < 8 * len := by
  have hpal : len * x.sccPal.toNat ≤ len * 7 := Nat.mul_le_mul_left len (Nat.le_of_lt_succ x.sccPal.isLt)
  unfold chaseCount
  omega

/-- With the index in range, the number determines both digits. -/
theorem chaseCount_eq_iff {len : Nat} {x : SectionRegs} (h : x.sccIdx < len) {a : Nat} (ha : a < len) (b : BitVec 3) :
    chaseCount len x = len * b.toNat + a ↔ x.sccIdx = a ∧ x.sccPal = b := by
  refine ⟨fun he => ?_, fun ⟨hidx, hpal⟩ => by rw [chaseCount, hidx, hpal]⟩
  have hlow := congrArg (· % len) he
  have hhigh := congrArg (· / len) he
  simp only [chaseCount, Nat.mul_add_mod, Nat.mod_eq_of_lt h, Nat.mod_eq_of_lt ha] at hlow
  simp only [chaseCount, Nat.mul_add_div (Nat.zero_lt_of_lt h), Nat.div_eq_of_lt h, Nat.div_eq_of_lt ha] at hhigh
  exact ⟨hlow, BitVec.eq_of_toNat_eq hhigh⟩

/-- One frame is one step of the counter: either the index moves on, or it wraps and carries into the palette index. -/
theorem chaseCount_kernelSingleColorChase {c : Config} {v : KernelView} (h : v.sec.sccIdx < c.sectionLen) (k : Fin 4) :
    chaseCount c.sectionLen (kernelSingleColorChase c k v).sec =
      (chaseCount c.sectionLen v.sec + 1) % (8 * c.sectionLen) := by
  obtain hwrap | hnext : v.sec.sccIdx + 1 = c.sectionLen ∨ v.sec.sccIdx + 1 < c.sectionLen := by omega
  · have hcarry : chaseCount c.sectionLen v.sec + 1 = c.sectionLen * (v.sec.sccPal.toNat + 1) := by
      rw [chaseCount, Nat.add_assoc, hwrap, Nat.mul_succ]
    rw [hcarry, Nat.mul_comm 8, Nat.mul_mod_mul_left]
    simp [chaseCount, hwrap, BitVec.toNat_add]
  · have hsucc : chaseCount c.sectionLen (kernelSingleColorChase c k v).sec = chaseCount c.sectionLen v.sec + 1 := by
      simp [chaseCount, Nat.mod_eq_of_lt hnext, Nat.add_assoc]
    rw [← hsucc, Nat.mod_eq_of_lt (chaseCount_lt (Nat.mod_lt _ (Nat.zero_lt_of_lt h)))]

theorem sccIdx_iterate_lt {c : Config} {v : KernelView} (h : v.sec.sccIdx < c.sectionLen) (k : Fin 4) (n : Nat) :
    ((kernelSingleColorChase c k)^[n] v).sec.sccIdx < c.sectionLen := by
  cases n with
  | zero => exact h
  | succ n =>
    rw [Function.iterate_succ_apply']
    exact Nat.mod_lt _ (Nat.zero_lt_of_lt h)

theorem chaseCount_iterate {c : Config} {v : KernelView} (h : v.sec.sccIdx < c.sectionLen) (k : Fin 4) (n : Nat) :
    chaseCount c.sectionLen ((kernelSingleColorChase c k)^[n] v).sec =
      (chaseCount c.sectionLen v.sec + n) % (8 * c.sectionLen) := by
  induction n with
  | zero => exact (Nat.mod_eq_of_lt (chaseCount_lt h)).symm
  | succ n ih =>
    rw [Function.iterate_succ_apply', chaseCount_kernelSingleColorChase (sccIdx_iterate_lt h k n), ih, Nat.mod_add_mod,
      Nat.add_assoc]

/-- A counter modulo `m` shows every value at exactly one of `m` successive steps. -/
theorem existsUnique_add_mod_eq {m x y : Nat} (hx : x < m) (hy : y < m) : ∃! n, n < m ∧ (x + n) % m = y := by
  have hmod : y ≡ x + (m - x + y) [MOD m] := by
    rw [← Nat.add_assoc, Nat.add_sub_cancel' hx.le]
    exact (Nat.add_mod_left m y).symm
  refine ⟨(m - x + y) % m, ⟨Nat.mod_lt _ (Nat.zero_lt_of_lt hx), ?_⟩, fun n hn => ?_⟩
  · rw [Nat.add_mod_mod, ← hmod, Nat.mod_eq_of_lt hy]
  · obtain ⟨hlt, heq⟩ := hn
    have hstep : x + n ≡ x + (m - x + y) [MOD m] := Nat.ModEq.trans (heq.trans (Nat.mod_eq_of_lt hy).symm) hmod
    exact (Nat.mod_eq_of_lt hlt).symm.trans hstep.add_left_cancel'

/-- Settles O39: the pair is a counter modulo `8 * L` that each frame advances by one. -/
theorem singleColorChaseHasPeriodEightL : Obligations.SingleColorChaseHasPeriodEightL := by
  unfold Obligations.SingleColorChaseHasPeriodEightL
  intro c k v hidx
  have pair_iff (n : Nat) {a : Nat} (ha : a < c.sectionLen) (b : BitVec 3) :
      ((kernelSingleColorChase c k)^[n] v).sec.sccIdx = a ∧ ((kernelSingleColorChase c k)^[n] v).sec.sccPal = b ↔
        (chaseCount c.sectionLen v.sec + n) % (8 * c.sectionLen) = c.sectionLen * b.toNat + a := by
    rw [← chaseCount_eq_iff (sccIdx_iterate_lt hidx k n) ha, chaseCount_iterate hidx]
  have hperiod := (pair_iff (8 * c.sectionLen) hidx v.sec.sccPal).mpr (by
    rw [Nat.add_mod_right]
    exact Nat.mod_eq_of_lt (chaseCount_lt hidx))
  refine ⟨hperiod.1, hperiod.2, fun a b ha => ?_⟩
  simp only [pair_iff _ ha]
  exact existsUnique_add_mod_eq (chaseCount_lt hidx) (chaseCount_lt (x := { v.sec with sccIdx := a, sccPal := b }) ha)

/-! ### Chase -/

/-- The last colour placed covers its pixel; the earlier ones show everywhere else. -/
theorem read_chasePaint_succ {c : Config} {fb : FrameBuffer} (h : Memory.wf c.pixels fb = true) (hlen : 0 < c.sectionLen)
    (k : Fin 4) (idx n i : Nat) :
    Memory.read (chasePaint c k idx fb (n + 1)) i =
      if i = c.sectionStart k + (idx + n) % c.sectionLen then c.pal (BitVec.ofNat 3 n)
      else Memory.read (chasePaint c k idx fb n) i :=
  read_fbWrite_inSection (chasePaint_wf h k idx n) k (Nat.mod_lt _ hlen) _ i

/-- An index on which none of the colours from the `m`-th on falls shows what the first `m` left there. -/
theorem read_chasePaint_of_ne {c : Config} {fb : FrameBuffer} (h : Memory.wf c.pixels fb = true) (hlen : 0 < c.sectionLen)
    (k : Fin 4) {idx m n i : Nat} (hmn : m ≤ n)
    (hne : ∀ j, m ≤ j → j < n → i ≠ c.sectionStart k + (idx + j) % c.sectionLen) :
    Memory.read (chasePaint c k idx fb n) i = Memory.read (chasePaint c k idx fb m) i := by
  induction n, hmn using Nat.le_induction with
  | base => rfl
  | succ n hmn ih =>
    rw [read_chasePaint_succ h hlen, if_neg (hne n hmn n.lt_succ_self)]
    exact ih fun j hmj hjn => hne j hmj (Nat.lt_succ_of_lt hjn)

/-- The highest colour that falls on an index is the one it shows. -/
theorem read_chasePaint_highest {c : Config} {fb : FrameBuffer} (h : Memory.wf c.pixels fb = true) (hlen : 0 < c.sectionLen)
    (k : Fin 4) {idx m n : Nat} (hmn : m < n)
    (hne : ∀ j, m < j → j < n → (idx + j) % c.sectionLen ≠ (idx + m) % c.sectionLen) :
    Memory.read (chasePaint c k idx fb n) (c.sectionStart k + (idx + m) % c.sectionLen) = c.pal (BitVec.ofNat 3 m) := by
  have hlater := read_chasePaint_of_ne h hlen k hmn fun j hmj hjn heq => hne j hmj hjn (Nat.add_left_cancel heq).symm
  rw [hlater, read_chasePaint_succ h hlen, if_pos rfl]

/-- Settles O40: the highest colour is placed last on its pixel, and the black fill shows where no colour is placed. -/
theorem chasePlacesEightColours : Obligations.ChasePlacesEightColours := by
  unfold Obligations.ChasePlacesEightColours
  intro s hfb hlen
  have hblank : Memory.wf s.cfg.pixels (fillSection s.cfg s.frameSec s.fb fun _ => Color.black) = true :=
    fillSection_wf hfb s.frameSec _
  have toNat_ofNat {j : Nat} (hj : j < 8) : (BitVec.ofNat 3 j).toNat = j := Nat.mod_eq_of_lt hj
  have hunpainted {i : Nat}
      (hi : ∀ j < 8, i ≠ s.cfg.sectionStart s.frameSec + ((s.sec s.frameSec).chIdx + j) % s.cfg.sectionLen) :
      Memory.read (s.runKernel kernelChase s.frameSec).fb i =
        if InSection s.cfg s.frameSec i then Color.black else Memory.read s.fb i :=
    (read_chasePaint_of_ne hblank hlen s.frameSec (Nat.zero_le 8) fun j _ => hi j).trans (read_fillSection hfb s.frameSec _ i)
  refine ⟨s.runKernel kernelChase s.frameSec, rfl, ?_, fun o ho hnone => ?_, fun i hi => ?_, State.runKernel_of_rand_eq rfl⟩
  · rintro _ j rfl hhighest
    have hread := read_chasePaint_highest hblank hlen s.frameSec (idx := (s.sec s.frameSec).chIdx) j.isLt fun j' hj hlt => by
      have hj' := hhighest (BitVec.ofNat 3 j')
      rw [BitVec.lt_def, toNat_ofNat hlt] at hj'
      exact hj' hj
    rwa [BitVec.ofNat_toNat, BitVec.setWidth_eq] at hread
  · rw [hunpainted, if_pos (inSection_add s.frameSec ho)]
    intro j hj heq
    have hj' := hnone (BitVec.ofNat 3 j)
    rw [toNat_ofNat hj] at hj'
    exact hj' (Nat.add_left_cancel heq).symm
  · rw [hunpainted, if_neg hi]
    rintro j - rfl
    exact hi (inSection_add s.frameSec (Nat.mod_lt _ hlen))

end Sys2Proof.Machine
end

section
/-! The interpolation of RandomFade (43_random_kernels.md R223), and the fade of a picked pixel, frame by frame (R222, R224, R225). -/

namespace Sys2Proof.Machine

/-! ### Interpolation -/

/-- A part of the way `d`, of at most all of it, rounded down, lies between no way and the whole way. -/
theorem mul_ediv_between {d num den : Int} (hnum : 0 ≤ num) (hle : num ≤ den) (hden : 0 < den) :
    (0 ≤ d * num / den ∧ d * num / den ≤ d) ∨ (d ≤ d * num / den ∧ d * num / den ≤ 0) := by
  rcases le_total 0 d with hd | hd
  · exact .inl ⟨Int.ediv_nonneg (Int.mul_nonneg hd hnum) hden.le,
      Int.ediv_le_of_le_mul hden (Int.mul_le_mul_of_nonneg_left hle hd)⟩
  · exact .inr ⟨(Int.le_ediv_iff_mul_le hden).mpr (Int.mul_le_mul_of_nonpos_left hd hle),
      Int.ediv_le_of_le_mul hden ((mul_nonpos_of_nonpos_of_nonneg hd hnum).trans_eq (zero_mul den).symm)⟩

section
variable {num den : Int} (hnum : 0 ≤ num) (hle : num ≤ den) (hden : 0 < den)
include hnum hle hden

/-- The interpolated value lies between two channels, so it fits the byte. -/
theorem lerpChannel_toNat (cur t : Byte) : ((lerpChannel cur t num den).toNat : Int) =
    cur.toNat + ((t.toNat : Int) - cur.toNat) * num / den := by
  have hcur := cur.isLt
  have ht := t.isLt
  have hbetween := mul_ediv_between (d := (t.toNat : Int) - cur.toNat) hnum hle hden
  rw [lerpChannel, BitVec.toNat_ofInt]
  omega

theorem lerpChannel_toward (cur t : Byte) : Toward cur (lerpChannel cur t num den) t := by
  have hval := lerpChannel_toNat hnum hle hden cur t
  have hbetween := mul_ediv_between (d := (t.toNat : Int) - cur.toNat) hnum hle hden
  simp only [Toward, BitVec.le_def]
  omega

end

theorem lerpChannel_self {den : Int} (hden : 0 < den) (cur t : Byte) : lerpChannel cur t den den = t := by
  have hval := lerpChannel_toNat hden.le le_rfl hden cur t
  rw [Int.mul_ediv_cancel _ hden.ne'] at hval
  exact BitVec.eq_of_toNat_eq (by omega)

theorem lerp_self {den : Int} (hden : 0 < den) (cur t : Color) : lerp cur t den den = t := by
  simp only [lerp, lerpChannel_self hden]

/-- Settles O59: `lerp` works channel by channel, and for a positive `den` the model's division is the floor division. -/
theorem interpolationStaysBetweenItsEnds : Obligations.InterpolationStaysBetweenItsEnds := by
  unfold Obligations.InterpolationStaysBetweenItsEnds
  intro cur tgt num den hden hle
  have hnum : (0 : Int) ≤ num := Int.natCast_nonneg num
  have hle : (num : Int) ≤ den := Int.ofNat_le.mpr hle
  have hden : (0 : Int) < den := Int.ofNat_lt.mpr hden
  simp only [Int.fdiv_eq_ediv_of_nonneg _ hden.le]
  refine ⟨lerpChannel_toNat hnum hle hden .., lerpChannel_toNat hnum hle hden .., lerpChannel_toNat hnum hle hden ..,
    lerpChannel_toward hnum hle hden .., lerpChannel_toward hnum hle hden .., lerpChannel_toward hnum hle hden .., ?_⟩
  rintro rfl
  exact lerp_self hden cur tgt

/-! ### RandomFade: what a frame does to a pixel whose fade is pending -/

/-- A section with a lit pixel is not seeded (43_random_kernels.md R221). -/
theorem rfSeedIfBlack_of_lit {c : Config} {k : Fin 4} {v : KernelView}
    (h : ∃ i < c.sectionLen, readSection c k v.fb i ≠ Color.black) : rfSeedIfBlack c k v = v := by
  obtain ⟨i, hi, hlit⟩ := h
  exact if_neg fun hblack => hlit (by simpa using List.all_eq_true.mp hblack i (List.mem_range.mpr hi))

theorem rfPickCount_le (c : Config) (n : Nat) (p : RandomPort) : (rfPickCount c n p).1 ≤ n := by
  have hdraw : (p.draw (min 3 n + 1)).1 < min 3 n + 1 := RandomPort.draw_lt (Nat.succ_pos _) p
  unfold rfPickCount
  split
  · exact min_le_right 3 n
  · omega

theorem getD_set_of_ne {α : Type} {i o : Nat} (h : i ≠ o) (l : List α) (a d : α) : (l.set i a).getD o d = l.getD o d := by
  simp only [List.getD, List.getElem?_set_ne h]

/-- As long as the list does not run out, the picks touch only pixels of the list. -/
theorem rfPickLoop_of_notMem (c : Config) {m o : Nat} {el : List Nat} (hm : m ≤ el.length) (ho : o ∉ el) (x : SectionRegs)
    (p : RandomPort) : (rfPickLoop c m el x p).1.rfFs.getD o 0 = x.rfFs.getD o 0 ∧
      (rfPickLoop c m el x p).1.rfTgt.getD o Color.black = x.rfTgt.getD o Color.black := by
  induction m generalizing el x p with
  | zero => exact ⟨rfl, rfl⟩
  | succ m ih =>
    have hj : (p.draw el.length).1 < el.length := RandomPort.draw_lt (by omega) p
    have hne : el.getD (p.draw el.length).1 0 ≠ o := by
      rw [List.getD_eq_getElem _ _ hj]
      exact fun heq => ho (heq ▸ List.getElem_mem hj)
    have hrest : m ≤ (el.eraseIdx (p.draw el.length).1).length := by
      rw [List.length_eraseIdx_of_lt hj]
      omega
    have hpicks := ih hrest fun hmem => ho (List.mem_of_mem_eraseIdx hmem)
    exact ⟨(hpicks _ _).1.trans (getD_set_of_ne hne _ _ _), (hpicks _ _).2.trans (getD_set_of_ne hne _ _ _)⟩

/-- A pixel whose fade is pending is not picked (43_random_kernels.md R222). -/
theorem rfPick_of_pending (c : Config) {v : KernelView} {o : Nat} (h : v.sec.rfFs.getD o 0 ≠ 0) :
    (rfPick c v).sec.rfFs.getD o 0 = v.sec.rfFs.getD o 0 ∧
    (rfPick c v).sec.rfTgt.getD o Color.black = v.sec.rfTgt.getD o Color.black :=
  have hout : o ∉ rfEligible c.sectionLen v.sec := by
    rw [← eligibleWithout_nil, mem_eligibleWithout]
    exact fun ⟨_, h0, _⟩ => h h0
  rfPickLoop_of_notMem c (rfPickCount_le c _ _) hout v.sec _

theorem rfCount_toNat (fs : BitVec 5) : (rfCount fs).toNat = fs.toNat - 1 := by
  revert fs; decide

theorem rfUpdate_rfFs (c : Config) (k : Fin 4) (v : KernelView) (o : Nat) :
    (rfUpdate c k v).sec.rfFs.getD o 0 = rfCount (v.sec.rfFs.getD o 0) :=
  List.getD_map _ (0 : BitVec 5) rfCount

theorem read_rfUpdate {c : Config} {v : KernelView} (h : Memory.wf c.pixels v.fb = true) (k : Fin 4) {o : Nat}
    (ho : o < c.sectionLen) : readSection c k (rfUpdate c k v).fb o =
      rfShown (readSection c k v.fb o) (v.sec.rfTgt.getD o Color.black) (v.sec.rfFs.getD o 0) := by
  rw [readSection, rfUpdate, read_fillSection h, if_pos (inSection_add k ho), Nat.add_sub_cancel_left]

/-! ### RandomFade: the twenty frames of a picked pixel -/

/-- After the pick of the frame that starts at `v`, pixel `o` has `f` frames of its fade to `target` left, this one included. -/
structure Fading (c : Config) (v : KernelView) (o : Nat) (target : Color) (f : Nat) : Prop where
  canonical : Memory.wf c.pixels v.fb = true
  counter : ((rfPick c v).sec.rfFs.getD o 0).toNat = f
  target_eq : (rfPick c v).sec.rfTgt.getD o Color.black = target

section
variable {c : Config} {k : Fin 4} {v : KernelView} {o f : Nat} {target : Color} (h : Fading c v o target f)
  (hlit : ∃ i < c.sectionLen, readSection c k v.fb i ≠ Color.black)
include h hlit

theorem Fading.counter_kernelTwinkle : ((kernelTwinkle c k v).sec.rfFs.getD o 0).toNat = f - 1 := by
  rw [kernelTwinkle, rfSeedIfBlack_of_lit hlit, rfUpdate_rfFs, rfCount_toNat, h.counter]

theorem Fading.shown_kernelTwinkle (hf : 0 < f) (ho : o < c.sectionLen) :
    readSection c k (kernelTwinkle c k v).fb o =
      lerp (readSection c k v.fb o) target (20 - ((f - 1 : Nat) : Int)) 20 := by
  have hne : (rfPick c v).sec.rfFs.getD o 0 ≠ 0 := fun h0 => hf.ne ((congrArg BitVec.toNat h0).symm.trans h.counter)
  have hread := read_rfUpdate (v := rfPick c v) h.canonical k ho
  rw [rfShown, if_neg hne, rfCount_toNat, h.counter, h.target_eq, rfPick_fb] at hread
  rw [kernelTwinkle, rfSeedIfBlack_of_lit hlit, hread]

/-- While the counter has not run out the next frame does not pick the pixel, so the fade goes on. -/
theorem Fading.next (hf : 1 < f) : Fading c (kernelTwinkle c k v) o target (f - 1) := by
  have hcount := h.counter_kernelTwinkle hlit
  have hpending : (kernelTwinkle c k v).sec.rfFs.getD o 0 ≠ 0 := by
    intro h0
    have hzero : (0 : BitVec 5).toNat = f - 1 := h0 ▸ hcount
    exact absurd (Nat.le_of_sub_eq_zero hzero.symm) (Nat.not_le_of_gt hf)
  obtain ⟨hfs, htgt⟩ := rfPick_of_pending c hpending
  refine ⟨kernelOfTag_wf (t := 8) rfl k h.canonical, (congrArg _ hfs).trans hcount, htgt.trans ?_⟩
  rw [kernelTwinkle, rfSeedIfBlack_of_lit hlit]
  exact h.target_eq

end

theorem Fading.iterate {c : Config} {k : Fin 4} {v : KernelView} {o f : Nat} {target : Color} (h : Fading c v o target f)
    {n : Nat} (hn : n < f)
    (hlit : ∀ m < n, ∃ i < c.sectionLen, readSection c k ((kernelTwinkle c k)^[m] v).fb i ≠ Color.black) :
    Fading c ((kernelTwinkle c k)^[n] v) o target (f - n) := by
  induction n with
  | zero => exact h
  | succ n ih =>
    rw [Function.iterate_succ_apply', ← Nat.sub_sub]
    exact (ih (Nat.lt_of_succ_lt hn) fun m hm => hlit m (Nat.lt_succ_of_lt hm)).next (hlit n n.lt_succ_self)
      (Nat.lt_sub_iff_add_lt'.mpr hn)

/-- Settles O53: frame `n` of the fade shows `lerp` of the colour before it by `(n + 1)/20`, which moves toward the target and for
`n = 19` is the target. -/
theorem randomFadeReachesItsTargetInTwentyFrames : Obligations.RandomFadeReachesItsTargetInTwentyFrames := by
  unfold Obligations.RandomFadeReachesItsTargetInTwentyFrames
  intro c k v o target hfb ho hpicked htarget hlit
  have hstart : Fading c v o target 20 := ⟨hfb, congrArg BitVec.toNat hpicked, htarget.symm⟩
  have hfading {n : Nat} (hn : n < 20) : Fading c ((kernelTwinkle c k)^[n] v) o target (20 - n) :=
    hstart.iterate hn fun m hm => hlit m (hm.trans hn)
  have hshown {n : Nat} (hn : n < 20) : readSection c k ((kernelTwinkle c k)^[n + 1] v).fb o =
      lerp (readSection c k ((kernelTwinkle c k)^[n] v).fb o) target (n + 1) 20 := by
    rw [Function.iterate_succ_apply', (hfading hn).shown_kernelTwinkle (hlit n hn) (Nat.sub_pos_of_lt hn) ho]
    congr 1
    omega
  refine ⟨?_, fun n hn => ?_, fun n hn => ?_⟩
  · rw [hshown (n := 19) (by decide)]
    exact lerp_self (by decide) _ _
  · rw [Function.iterate_succ_apply', (hfading hn).counter_kernelTwinkle (hlit n hn)]
    omega
  · have hnum : (0 : Int) ≤ n + 1 := by omega
    have hle : (n + 1 : Int) ≤ 20 := by omega
    rw [hshown hn]
    exact ⟨lerpChannel_toward hnum hle (by decide) .., lerpChannel_toward hnum hle (by decide) ..,
      lerpChannel_toward hnum hle (by decide) ..⟩

end Sys2Proof.Machine
end

section
/-! Fireflies: the advance of every pixel (43_random_kernels.md R213), and a whole frame (R212, R216). -/

namespace Sys2Proof.Machine

/-! ### One pixel's advance -/

theorem ffAdvancePixel_fadeIn (bri : BitVec 8) :
    (ffAdvancePixel .fadeIn bri).2.toNat = min (bri.toNat + 50) 255 ∧
    (ffAdvancePixel .fadeIn bri).1 = if (ffAdvancePixel .fadeIn bri).2 = 255 then .fadeOut else .fadeIn := by
  have hval : (ffAdvancePixel .fadeIn bri).2.toNat = min (bri.toNat + 50) 255 :=
    (BitVec.toNat_ofNat ..).trans (Nat.mod_eq_of_lt (by omega))
  refine ⟨hval, ?_⟩
  simp only [BitVec.toNat_eq (x := (ffAdvancePixel .fadeIn bri).2), hval]
  rfl

theorem ffAdvancePixel_fadeOut (bri : BitVec 8) :
    (ffAdvancePixel .fadeOut bri).2.toNat = bri.toNat - 30 ∧
    (ffAdvancePixel .fadeOut bri).1 = if (ffAdvancePixel .fadeOut bri).2 = 0 then .off else .fadeOut := by
  have hval : (ffAdvancePixel .fadeOut bri).2.toNat = bri.toNat - 30 :=
    (BitVec.toNat_ofNat ..).trans (Nat.mod_eq_of_lt (by omega))
  refine ⟨hval, ?_⟩
  simp only [BitVec.toNat_eq (x := (ffAdvancePixel .fadeOut bri).2), hval]
  rfl

/-! ### The advance, read back pixel by pixel -/

theorem getD_mapIdx_of_lt {α β : Type} {l : List α} {o : Nat} (h : o < l.length) (f : Nat → α → β) (a : α) (b : β) :
    (l.mapIdx f).getD o b = f o (l.getD o a) := by
  rw [List.getD_eq_getElem _ _ (by simpa using h), List.getD_eq_getElem _ _ h, List.getElem_mapIdx]

theorem ffAdvance_ffPhase {x : SectionRegs} {o : Nat} (h : o < x.ffPhase.length) :
    (ffAdvance x).ffPhase.getD o .off =
      if o ∈ x.ffActive then (ffAdvancePixel (x.ffPhase.getD o .off) (x.ffBri.getD o 0)).1 else x.ffPhase.getD o .off :=
  getD_mapIdx_of_lt h _ _ _

theorem ffAdvance_ffBri {x : SectionRegs} {o : Nat} (h : o < x.ffBri.length) :
    (ffAdvance x).ffBri.getD o 0 =
      if o ∈ x.ffActive then (ffAdvancePixel (x.ffPhase.getD o .off) (x.ffBri.getD o 0)).2 else x.ffBri.getD o 0 :=
  getD_mapIdx_of_lt h _ _ _

theorem mem_ffAdvance_ffActive {x : SectionRegs} {o : Nat} : o ∈ (ffAdvance x).ffActive ↔
    o ∈ x.ffActive ∧ (x.ffPhase.getD o .off ≠ .fadeIn → (x.ffBri.getD o 0).toNat - 30 ≠ 0) := by
  simp only [ffAdvance, ffLeaves, List.mem_filter, Bool.not_eq_true', Bool.and_eq_false_imp, decide_eq_true_eq,
    decide_eq_false_iff_not, ne_eq]

/-- Settles O47: the lists read back at one pixel, in the three cases; an active pixel is not off, so one that does not fade in
fades out. -/
theorem firefliesAdvanceEachActivePixel : Obligations.FirefliesAdvanceEachActivePixel := by
  unfold Obligations.FirefliesAdvanceEachActivePixel
  rintro len x ⟨-, hphaseLen, hbriLen, hactive, -, -⟩
  refine ⟨ffAdvance_frame x, fun o ho => ?_⟩
  have hphase := ffAdvance_ffPhase (ho.trans_eq hphaseLen.symm)
  have hbri := ffAdvance_ffBri (ho.trans_eq hbriLen.symm)
  refine ⟨fun hout => ?_, fun hin hfade => ?_, fun hin hfade => ?_⟩
  · rw [if_neg hout] at hphase hbri
    exact ⟨hphase, hbri, fun hmem => hout (mem_ffAdvance_ffActive.mp hmem).1⟩
  · rw [if_pos hin, hfade] at hphase hbri
    rw [hphase, hbri]
    obtain ⟨hgain, hturn⟩ := ffAdvancePixel_fadeIn (x.ffBri.getD o 0)
    exact ⟨hgain, hturn, mem_ffAdvance_ffActive.mpr ⟨hin, fun hne => absurd hfade hne⟩⟩
  · have hon : x.ffPhase.getD o .off ≠ .off := by
      rw [hactive] at hin
      simpa using (List.mem_filter.mp hin).2
    have hfadeOut : x.ffPhase.getD o .off = .fadeOut := by
      cases hp : x.ffPhase.getD o .off with
      | off => exact absurd hp hon
      | fadeIn => exact absurd hp hfade
      | fadeOut => rfl
    rw [if_pos hin, hfadeOut] at hphase hbri
    obtain ⟨hlose, hturn⟩ := ffAdvancePixel_fadeOut (x.ffBri.getD o 0)
    have hleave : o ∈ (ffAdvance x).ffActive ↔ (x.ffBri.getD o 0).toNat - 30 ≠ 0 := by
      rw [mem_ffAdvance_ffActive]
      exact ⟨fun hmem => hmem.2 hfade, fun hne => ⟨hin, fun _ => hne⟩⟩
    rw [hphase, hbri]
    refine ⟨hlose, hturn, ?_⟩
    rw [hleave, Ne, Ne, BitVec.toNat_eq, hlose]
    rfl

/-! ### A whole frame -/

theorem read_kernelFireflies {c : Config} {v : KernelView} (h : Memory.wf c.pixels v.fb = true) (k : Fin 4) (i : Nat) :
    Memory.read (kernelFireflies c k v).fb i =
      if InSection c k i then ffShown (kernelFireflies c k v).sec (i - c.sectionStart k) else Memory.read v.fb i :=
  read_fillSection h k _ i

/-- Settles O46: the kernel's registers and source are those of the spawn after the advance, and its fill shows those registers. -/
theorem firefliesAdvancesSpawnsShows : Obligations.FirefliesAdvancesSpawnsShows := by
  unfold Obligations.FirefliesAdvancesSpawnsShows
  intro s hfb _
  exact ⟨s.runKernel kernelFireflies s.frameSec, (kernelFireflies s.cfg s.frameSec (s.view s.frameSec)).sec,
    (kernelFireflies s.cfg s.frameSec (s.view s.frameSec)).rand, rfl, rfl,
    read_kernelFireflies (v := s.view s.frameSec) hfb s.frameSec,
    kernelFireflies_sec s.cfg s.frameSec (s.view s.frameSec), rfl⟩

end Sys2Proof.Machine
end

section
/-! The control commands NOP, CURSOR, TOGGLE_SELECT and BUTTON2 (45_control_commands.md R270, R272, R274, R278). -/

namespace Sys2Proof.Machine

/-! ### NOP and CURSOR -/

theorem exec_nop (s : State) : exec .nop s = .next s := rfl

theorem exec_cursor (s : State) : exec .cursor s = .next s := rfl

/-- Settles O21: each of the two arms answers its state. -/
theorem nopAndCursorChangeNothing : Obligations.NopAndCursorChangeNothing := by
  unfold Obligations.NopAndCursorChangeNothing
  exact fun s => ⟨exec_nop s, exec_cursor s⟩

/-! ### TOGGLE_SELECT -/

/-- In both directions of the toggle nothing stays listed in a canonical framebuffer. -/
theorem exec_toggleSelect {s : State} (h : s.Canonical) :
    exec .toggleSelect s = .next { s with sel := { s.sel with selecting := !s.sel.selecting }, fb := [] } := by
  rw [← fbClear_eq_nil h]
  rfl

/-- Settles O22: the state of `exec_toggleSelect`, whose empty framebuffer reads `BLACK` everywhere. -/
theorem toggleSelectFlipsAndClears : Obligations.ToggleSelectFlipsAndClears := by
  unfold Obligations.ToggleSelectFlipsAndClears
  exact fun s hfb => ⟨_, exec_toggleSelect hfb, rfl, Memory.read_nil, rfl⟩

/-! ### BUTTON2 -/

theorem exec_button2_selecting {s : State} (h : s.sel.selecting = true) :
    exec .button2 s = .next { s with sel := { s.sel with sect := s.sel.sect + 1 } } :=
  if_pos h

theorem exec_button2_normal {s : State} (h : s.sel.selecting = false) :
    exec .button2 s = .next (s.setSec s.sel.sect (cycleBound s.cfg (s.sec s.sel.sect))) :=
  if_neg (Bool.not_eq_true _ ▸ h)

theorem cycleBound_of_solidColor {x : SectionRegs} (h : x.mode = 1) (c : Config) :
    cycleBound c x = { x with solid := cycleColor c x.solid } :=
  if_pos h

theorem cycleBound_of_solidPattern {x : SectionRegs} (h : x.mode = 2) (c : Config) :
    cycleBound c x = { x with pattern := x.pattern.map (cycleColor c) } := by
  have hne : x.mode ≠ 1 := by rw [h]; decide
  rw [cycleBound, if_neg hne, if_pos h]

theorem cycleBound_of_unbound {x : SectionRegs} (h1 : x.mode ≠ 1) (h2 : x.mode ≠ 2) (c : Config) :
    cycleBound c x = x := by
  rw [cycleBound, if_neg h1, if_neg h2]

/-- Inside a list the defaults of `getD` do not matter, so they need not correspond as in `List.getD_map`. -/
theorem getD_map_of_lt {α β : Type} {l : List α} {j : Nat} (h : j < l.length) (f : α → β) (a : α) (b : β) :
    (l.map f).getD j b = f (l.getD j a) := by
  rw [List.getD_eq_getElem _ _ (by simpa using h), List.getD_eq_getElem _ _ h, List.getElem_map]

/-- Settles O23: in Selecting state the section's successor wraps in `Fin 4`; in Normal state only the selected section is
written, with `cycleBound` of its registers, which each mode reads in its own case. -/
theorem buttonTwoSelectsOrCycles : Obligations.ButtonTwoSelectsOrCycles := by
  unfold Obligations.ButtonTwoSelectsOrCycles
  refine ⟨fun s hsel => ⟨_, exec_button2_selecting hsel, Fin.val_add _ _, rfl⟩, fun s hnorm => ?_⟩
  refine ⟨_, exec_button2_normal hnorm, rfl, fun k hk => ?_, ?_⟩
  · rw [State.setSec_sec, if_neg hk]
  · rw [State.setSec_sec, if_pos rfl]
    refine ⟨fun hsolid => cycleBound_of_solidColor hsolid _, fun hpattern => ?_, fun h1 h2 => cycleBound_of_unbound h1 h2 _⟩
    rw [cycleBound_of_solidPattern hpattern]
    exact ⟨rfl, List.length_map _, fun j hj => getD_map_of_lt hj _ _ _⟩

end Sys2Proof.Machine
end

section
/-! FRAME in each state (46_frame_mux_writer.md R290 to R295, R303), and the pixel word (R304, 30_encoding.md R110). -/

namespace Sys2Proof.Machine

/-! ### FRAME in Selecting state -/

/-- The overlay clears before it fills, so nothing of an earlier picture is left outside the selected section. -/
theorem read_overlay {s : State} (h : s.Canonical) (i : Nat) :
    Memory.read s.overlay.fb i = if InSection s.cfg s.sel.sect i then s.cfg.highlight else Color.black := by
  rw [State.overlay_fb, fbClear_eq_nil h]
  exact read_fillSection (Memory.wf_nil _) _ _ i

/-- Settles O27: FRAME renders the overlay, whose picture `read_overlay` gives, and `overlay` writes the framebuffer alone. -/
theorem selectingFrameIsTheOverlay : Obligations.SelectingFrameIsTheOverlay := by
  unfold Obligations.SelectingFrameIsTheOverlay
  exact fun s hfb hsel => ⟨s.overlay.render, exec_frame_selecting hsel, read_overlay hfb, rfl, rfl⟩

/-! ### FRAME in Normal state -/

/-- What one FRAME changes, seen from the state `s` it starts in, when its picture is made by `d`, which differs from `s` as
kernels can. -/
theorem State.render_eq_of_frame {s d : State} (h : d = { s with secs := d.secs, fb := d.fb, rand := d.rand }) :
    d.render = { s with secs := d.secs, fb := d.fb, rand := d.rand, trace := s.trace ++ frameEvents s.cfg d.fb } := by
  rw [h]
  rfl

/-- Settles O28: FRAME renders what the section loop leaves, and the loop changes only sections, framebuffer and random source. -/
theorem normalFrameRunsTheKernelsThenRenders : Obligations.NormalFrameRunsTheKernelsThenRenders := by
  unfold Obligations.NormalFrameRunsTheKernelsThenRenders
  intro s hnorm hlegal
  exact ⟨_, _, _, s.runSections, s.runSections.render, exec_frame_normal hnorm hlegal, rfl, rfl, rfl, rfl,
    State.render_eq_of_frame s.runSections_frame⟩

/-! ### The pixel word -/

theorem channelWord_shiftLeft_toNat {n : Nat} (hn : n ≤ 24) (ch : Byte) :
    (channelWord ch <<< n).toNat = ch.toNat * 2 ^ n := by
  have hword : (channelWord ch).toNat = ch.toNat := BitVec.toNat_setWidth_of_le (by decide)
  have hfits : ch.toNat * 2 ^ n < 2 ^ 8 * 2 ^ 24 :=
    Nat.mul_lt_mul_of_lt_of_le ch.isLt (Nat.pow_le_pow_right Nat.two_pos hn) (Nat.two_pow_pos 24)
  rw [BitVec.toNat_shiftLeft, hword, Nat.shiftLeft_eq]
  exact Nat.mod_eq_of_lt hfits

theorem pack_grbMsb_toNat (x : Color) :
    (pack .grbMsb x).toNat = x.g.toNat * 2 ^ 24 + x.r.toNat * 2 ^ 16 + x.b.toNat * 2 ^ 8 := by
  simp only [pack, BitVec.toNat_add, channelWord_shiftLeft_toNat (Nat.le_refl 24),
    channelWord_shiftLeft_toNat (show 16 ≤ 24 by decide), channelWord_shiftLeft_toNat (show 8 ≤ 24 by decide)]
  omega

theorem pack_rgbLsb_toNat (x : Color) :
    (pack .rgbLsb x).toNat = x.r.toNat * 2 ^ 16 + x.g.toNat * 2 ^ 8 + x.b.toNat := by
  have hlow : (channelWord x.b).toNat = x.b.toNat := BitVec.toNat_setWidth_of_le (by decide)
  simp only [pack, BitVec.toNat_add, channelWord_shiftLeft_toNat (show 16 ≤ 24 by decide),
    channelWord_shiftLeft_toNat (show 8 ≤ 24 by decide), hlow]
  omega

theorem extractLsb'_eq_byte {w : Word} {start : Nat} {ch : Byte} (h : w.toNat / 2 ^ start % 2 ^ 8 = ch.toNat) :
    w.extractLsb' start 8 = ch := by
  apply BitVec.eq_of_toNat_eq
  rw [BitVec.extractLsb'_toNat, Nat.shiftRight_eq_div_pow, h]

/-- The bytes of a word are the base-256 digits of its value. -/
theorem bytes_of_toNat {w : Word} {c3 c2 c1 c0 : Byte}
    (h : w.toNat = c3.toNat * 2 ^ 24 + c2.toNat * 2 ^ 16 + c1.toNat * 2 ^ 8 + c0.toNat) :
    w.extractLsb' 24 8 = c3 ∧ w.extractLsb' 16 8 = c2 ∧ w.extractLsb' 8 8 = c1 ∧ w.extractLsb' 0 8 = c0 := by
  refine ⟨extractLsb'_eq_byte ?_, extractLsb'_eq_byte ?_, extractLsb'_eq_byte ?_, extractLsb'_eq_byte ?_⟩ <;> omega

/-- Settles O58: each layout's sum of shifted channels does not overflow, so its bytes are its base-256 digits. -/
theorem packPlacesTheChannels : Obligations.PackPlacesTheChannels := by
  unfold Obligations.PackPlacesTheChannels
  intro x
  have hgrb := pack_grbMsb_toNat x
  have hrgb := pack_rgbLsb_toNat x
  obtain ⟨hg, hr, hb, h0⟩ := bytes_of_toNat (c3 := x.g) (c2 := x.r) (c1 := x.b) (c0 := 0) (by simpa using hgrb)
  have hrgbBytes := bytes_of_toNat (c3 := 0) (c2 := x.r) (c1 := x.g) (c0 := x.b) (by simpa using hrgb)
  exact ⟨hgrb, hrgb, hg, hr, hb, h0, hrgbBytes⟩

end Sys2Proof.Machine
end

section
/-! Faults: the halt while VALID is set, and the reset that clears it (60_exceptions.md R322). -/

namespace Sys2Proof.Machine

/-! ### The halt and its end -/

/-- A halted block fetches nothing, whatever waits on the command port. -/
theorem step_halted {s : State} (hrst : s.rst = none) (hvalid : s.faultValid = true) : step s = .next s :=
  step_quiet (State.fetch_halted hrst hvalid)

/-- VALID after a reset with a legal configuration (70_reset_and_hazards.md R352). -/
theorem State.release_faultValid {c : Config} (hlegal : c.legal = true) (s : State) :
    (s.release c).faultValid = false := by
  rw [State.release_legal hlegal]
  change (0 : BitVec 4).getLsbD 3 = false
  decide

/-- Settles O8: VALID makes the fetch quiet, and a legal reset loads `FAULT` with 0. -/
theorem haltedBlockTakesNoStep : Obligations.HaltedBlockTakesNoStep := by
  unfold Obligations.HaltedBlockTakesNoStep
  exact ⟨fun _ hrst hvalid => step_halted hrst hvalid,
    fun s c hrst hlegal => ⟨s.release c, step_reset hrst, State.release_faultValid hlegal s⟩⟩

end Sys2Proof.Machine
end

section
/-! Reset: what a legal and an illegal configuration leave (70_reset_and_hazards.md R350 to R352). -/

namespace Sys2Proof.Machine

/-! ### A legal configuration -/

/-- Settles O12: a legal reset loads `State.afterReset`, whose sections are `SectionRegs.initial`; its framebuffer lists
no entry, so every index reads `BLACK`. -/
theorem resetLoadsEveryResetValue : Obligations.ResetLoadsEveryResetValue := by
  unfold Obligations.ResetLoadsEveryResetValue
  intro s c hrst hlegal
  have hsec := State.release_sec hlegal s
  refine ⟨s.release c, step_reset hrst, ?_⟩
  rw [State.release_legal hlegal] at hsec ⊢
  refine ⟨rfl, Memory.read_nil, fun k => ?registers, rfl, rfl, rfl, rfl, rfl, rfl⟩
  case registers =>
    rw [hsec k]
    simp only [SectionRegs.initial, Config.sectionLen, and_self]

/-! ### An illegal configuration -/

/-- CONFIG_REJECT sets VALID. -/
theorem State.release_illegal_faultValid {c : Config} (hillegal : c.legal = false) (s : State) :
    (s.release c).faultValid = true := by
  simp only [State.release, hillegal, Bool.false_eq_true, if_false, State.raiseFault_valid]

/-- Settles O13: the rejected block is halted with no reset asserted, so it fetches nothing. -/
theorem resetRejectsAnIllegalConfiguration : Obligations.ResetRejectsAnIllegalConfiguration := by
  unfold Obligations.ResetRejectsAnIllegalConfiguration
  intro s c hrst hillegal
  have hvalid := State.release_illegal_faultValid hillegal s
  refine ⟨s.release c, step_reset hrst, ?_⟩
  rw [State.release_illegal hillegal] at hvalid ⊢
  exact ⟨rfl, rfl, rfl, rfl, step_halted rfl hvalid⟩

end Sys2Proof.Machine
end

section
/-! What an instruction can do, said once: the row of each kernel, and the inversion of `exec` (46_frame_mux_writer.md R290, R292). -/

namespace Sys2Proof.Machine

/-! ### The kernel rows -/

/-- The twelve rows of the mode table: a tag and the kernel it selects (30_encoding.md R104). -/
inductive KernelRow : BitVec 4 → (Config → Fin 4 → KernelView → KernelView) → Prop
  | off : KernelRow 0 kernelOff
  | solidColor : KernelRow 1 kernelSolidColor
  | solidPattern : KernelRow 2 kernelSolidPattern
  | rainbow : KernelRow 3 kernelRainbow
  | singleColorChase : KernelRow 4 kernelSingleColorChase
  | randomAll : KernelRow 5 kernelRandomAll
  | randomOne : KernelRow 6 kernelRandomOne
  | raindrops : KernelRow 7 kernelRaindrops
  | twinkle : KernelRow 8 kernelTwinkle
  | fireflies : KernelRow 9 kernelFireflies
  | dropAndStack : KernelRow 10 kernelDropAndStack
  | chase : KernelRow 11 kernelChase

theorem tag_eq_or_reserved (t : BitVec 4) :
    t = 0 ∨ t = 1 ∨ t = 2 ∨ t = 3 ∨ t = 4 ∨ t = 5 ∨ t = 6 ∨ t = 7 ∨ t = 8 ∨ t = 9 ∨ t = 10 ∨ t = 11 ∨
      decodeTag t = .reservedTag := by
  revert t; decide

/-- `kernelOfTag` answers only rows of the table. -/
theorem kernelRow_of_kernelOfTag {t : BitVec 4} {f : Config → Fin 4 → KernelView → KernelView}
    (h : kernelOfTag t = some f) : KernelRow t f := by
  have hlegal : decodeTag t ≠ .reservedTag := fun hreserved => by simp [kernelOfTag, hreserved] at h
  rcases tag_eq_or_reserved t with
    rfl | rfl | rfl | rfl | rfl | rfl | rfl | rfl | rfl | rfl | rfl | rfl | hreserved
  on_goal 13 => exact absurd hreserved hlegal
  all_goals
    obtain rfl := Option.some.inj h
    constructor

/-- A kernel instruction and the row that its own tag selects. -/
theorem kernelOfTag_of_decodeTag {t : BitVec 4} {i : Instr} (h : decodeTag t = .instr i) : ∃ f, kernelOfTag t = some f := by
  refine kernelOfTag_legal (by_contra fun hlt => ?_)
  rw [(decodeTag_reserved_iff t).mpr hlt] at h
  cases h

theorem decodeTag_mem_modeList {t : BitVec 4} {i : Instr} (h : decodeTag t = .instr i) : i ∈ modeList := by
  rw [decodeTag_eq_modeList] at h
  cases hget : modeList[t.toNat]? with
  | none => simp [hget] at h
  | some j =>
    simp only [hget, Option.elim_some, Decoded.instr.injEq] at h
    exact h ▸ List.mem_of_getElem? hget

/-! ### What an instruction can do -/

theorem exec_unique {i : Instr} {s t u : State} (ht : exec i s = .next t) (hu : exec i s = .next u) : t = u :=
  Host.Outcome.next.inj (ht.symm.trans hu)

/-- What NEXT_MODE leaves in Normal state (45_control_commands.md R276). -/
def State.withNextMode (s : State) : State :=
  { s.setSec s.sel.sect { s.sec s.sel.sect with mode := nextMode (s.sec s.sel.sect).mode } with fb := fbClear s.cfg.pixels s.fb }

theorem State.withNextMode_sec (s : State) (k : Fin 4) : s.withNextMode.sec k =
    if k = s.sel.sect then { s.sec s.sel.sect with mode := nextMode (s.sec s.sel.sect).mode } else s.sec k :=
  State.sec_set rfl k

theorem exec_nextMode_selecting {s : State} (h : s.sel.selecting = true) : exec .nextMode s = .next s :=
  if_pos h

theorem exec_nextMode_normal {s : State} (h : s.sel.selecting = false) : exec .nextMode s = .next s.withNextMode :=
  if_neg (Bool.not_eq_true _ ▸ h)

theorem exec_frame_badTag {s : State} (h : s.sel.selecting = false) {k : Fin 4} (hbad : s.badSection = some k) :
    exec .frame s = .next (s.raiseFault .badModeTag (tagInfo k (s.sec k).mode)) := by
  simp only [exec, execFrame, h, hbad, Bool.false_eq_true, if_false]

/-- Everything `exec` can answer from `s`: one constructor per branch of each meaning, one for the twelve kernel rows. -/
inductive Effect (s : State) : Instr → State → Prop
  | nop : Effect s .nop s
  | cursor : Effect s .cursor s
  | toggleSelect :
    Effect s .toggleSelect { s with sel := { s.sel with selecting := !s.sel.selecting }, fb := fbClear s.cfg.pixels s.fb }
  | selectSection (hsel : s.sel.selecting = true) : Effect s .button2 { s with sel := { s.sel with sect := s.sel.sect + 1 } }
  | cycleBound (hnorm : s.sel.selecting = false) :
    Effect s .button2 (s.setSec s.sel.sect (cycleBound s.cfg (s.sec s.sel.sect)))
  | keepMode (hsel : s.sel.selecting = true) : Effect s .nextMode s
  | advanceMode (hnorm : s.sel.selecting = false) : Effect s .nextMode s.withNextMode
  | overlay (hsel : s.sel.selecting = true) : Effect s .frame s.overlay.render
  | badTag (hnorm : s.sel.selecting = false) {k : Fin 4} (hbad : s.badSection = some k) :
    Effect s .frame (s.raiseFault .badModeTag (tagInfo k (s.sec k).mode))
  | sections (hnorm : s.sel.selecting = false) (hlegal : ∀ k, (s.sec k).mode < 12) : Effect s .frame s.runSections.render
  | kernel {i : Instr} {t : BitVec 4} {f : Config → Fin 4 → KernelView → KernelView} (hd : decodeTag t = .instr i)
    (hf : kernelOfTag t = some f) : Effect s i (s.runKernel f s.frameSec)

theorem exec_frame_effect {s t : State} (h : exec .frame s = .next t) : Effect s .frame t := by
  cases hsel : s.sel.selecting with
  | true =>
    obtain rfl := exec_unique h (exec_frame_selecting hsel)
    exact .overlay hsel
  | false =>
    cases hbad : s.badSection with
    | none =>
      have hlegal := State.badSection_none.mp hbad
      obtain rfl := exec_unique h (exec_frame_normal hsel hlegal)
      exact .sections hsel hlegal
    | some k =>
      obtain rfl := exec_unique h (exec_frame_badTag hsel hbad)
      exact .badTag hsel hbad

/-- The inversion of `exec`. -/
theorem exec_effect {i : Instr} {s t : State} (h : exec i s = .next t) : Effect s i t := by
  have hmode (hi : i ∈ modeList) : Effect s i t := by
    obtain ⟨_, f, -, hd, hf, hk⟩ := exec_kernel hi s
    obtain rfl := exec_unique h hk
    exact .kernel hd hf
  cases i
  case nop => cases h; exact .nop
  case cursor => cases h; exact .cursor
  case toggleSelect => cases h; exact .toggleSelect
  case frame => exact exec_frame_effect h
  case button2 =>
    cases hsel : s.sel.selecting with
    | true => obtain rfl := exec_unique h (exec_button2_selecting hsel); exact .selectSection hsel
    | false => obtain rfl := exec_unique h (exec_button2_normal hsel); exact .cycleBound hsel
  case nextMode =>
    cases hsel : s.sel.selecting with
    | true => obtain rfl := exec_unique h (exec_nextMode_selecting hsel); exact .keepMode hsel
    | false => obtain rfl := exec_unique h (exec_nextMode_normal hsel); exact .advanceMode hsel
  all_goals exact hmode (by decide)

/-! ### The section loop -/

theorem State.dispatch_cfg (s : State) (k : Fin 4) : (s.dispatch k).cfg = s.cfg := congrArg (·.cfg) (s.dispatch_frame k)

/-- Whatever every dispatch keeps, the section loop keeps. -/
theorem State.runSections_induct {P : State → Prop} (step : ∀ u k, P u → P (u.dispatch k)) {s : State} (h : P s) :
    P s.runSections :=
  step _ 3 (step _ 2 (step _ 1 (step _ 0 h)))

/-- Dispatches of sections that `p` holds of, one after another. -/
abbrev Dispatches (p : Fin 4 → Prop) : State → State → Prop := Relation.ReflTransGen fun u v => ∃ j, p j ∧ v = u.dispatch j

theorem Dispatches.induct {p : Fin 4 → Prop} {s t : State} (h : Dispatches p s t) {P : State → Prop}
    (step : ∀ u j, p j → P u → P (u.dispatch j)) (hs : P s) : P t := by
  induction h with
  | refl => exact hs
  | tail _ hlast ih =>
    obtain ⟨j, hj, rfl⟩ := hlast
    exact step _ j hj ih

/-- The loop, cut at section `k`: the lower sections, then `k`, then the higher ones (46_frame_mux_writer.md R290). -/
theorem State.runSections_split (s : State) (k : Fin 4) :
    ∃ u, Dispatches (· < k) s u ∧ Dispatches (k < ·) (u.dispatch k) s.runSections := by
  have one {p : Fin 4 → Prop} (u : State) (j : Fin 4) (hj : p j) : Dispatches p u (u.dispatch j) := .single ⟨j, hj, rfl⟩
  unfold State.runSections
  match k with
  | 0 => exact ⟨s, .refl, ((one _ 1 (by decide)).trans (one _ 2 (by decide))).trans (one _ 3 (by decide))⟩
  | 1 => exact ⟨_, one _ 0 (by decide), (one _ 2 (by decide)).trans (one _ 3 (by decide))⟩
  | 2 => exact ⟨_, (one _ 0 (by decide)).trans (one _ 1 (by decide)), one _ 3 (by decide)⟩
  | 3 => exact ⟨_, ((one _ 0 (by decide)).trans (one _ 1 (by decide))).trans (one _ 2 (by decide)), .refl⟩

/-- In the loop a section's registers are written by the kernel of its mode alone, which finds them as they were before. -/
theorem State.runSections_sec {s : State} {k : Fin 4} (hlegal : (s.sec k).mode < 12) :
    ∃ f v, KernelRow (s.sec k).mode f ∧ v.sec = s.sec k ∧ s.runSections.sec k = (f s.cfg k v).sec := by
  obtain ⟨f, hf⟩ := kernelOfTag_legal hlegal
  obtain ⟨u, hbefore, hafter⟩ := s.runSections_split k
  obtain ⟨hcfg, hsec⟩ := hbefore.induct (P := fun u => u.cfg = s.cfg ∧ u.sec k = s.sec k)
    (fun u j hj hu => ⟨(u.dispatch_cfg j).trans hu.1, (u.dispatch_sec_ne hj.ne').trans hu.2⟩) ⟨rfl, rfl⟩
  have hlast := hafter.induct (P := fun t => t.sec k = (u.dispatch k).sec k)
    (fun t j hj ht => (t.dispatch_sec_ne hj.ne).trans ht) rfl
  refine ⟨f, u.view k, kernelRow_of_kernelOfTag hf, hsec, ?_⟩
  rw [hlast, State.dispatch_eq (hsec ▸ hf), State.runKernel_sec, if_pos rfl, hcfg]

end Sys2Proof.Machine
end

section
/-! Legal configurations, and that resets and kernels keep the registers of a section legal (10_state.md R33 to R44, R51). -/

namespace Sys2Proof.Machine

/-! ### Legal configurations -/

theorem forall_mem_toList_iff {α : Type} {n : Nat} {v : Vector α n} {p : α → Prop} :
    (∀ x ∈ v.toList, p x) ↔ ∀ k : Fin n, p v[k] := by
  simp only [Vector.mem_toList_iff, Vector.forall_mem_iff_forall_getElem, Fin.forall_iff, Fin.getElem_fin]

theorem paletteIndices_eq : paletteIndices = (List.range 8).map (BitVec.ofNat 3) := by decide

theorem palette_toList (c : Config) : c.palette.toList = paletteIndices.map c.pal := by
  refine List.ext_getElem (by simp [paletteIndices]) fun n hn _ => ?_
  have hmod : n % 8 = n := Nat.mod_eq_of_lt (by simpa using hn)
  simp [paletteIndices_eq, Config.pal, hmod]

theorem palette_nodup_iff (c : Config) : c.palette.toList.Nodup ↔ ∀ i j : BitVec 3, c.pal i = c.pal j → i = j := by
  rw [palette_toList, List.nodup_map_iff_inj_on (by decide)]
  simp only [mem_paletteIndices, true_imp_iff]

theorem Config.legal_iff (c : Config) : c.legal = true ↔
    (1 ≤ c.width ∧ 1 ≤ c.height ∧ c.width * c.height % 4 = 0 ∧ 1 ≤ c.brightDen ∧ c.brightNum ≤ c.brightDen ∧
     1 ≤ c.frameDelayMs ∧ (∀ i j : BitVec 3, c.pal i = c.pal j → i = j) ∧ 1 ≤ c.patternLen ∧
     (∀ k : Fin 4, c.initMode[k].toNat ≤ 11) ∧ ∀ k : Fin 4, c.initPattern[k].length = c.patternLen) := by
  have hlt (t : BitVec 4) : t < 12 ↔ t.toNat ≤ 11 := by revert t; decide
  have hmod : c.pixels % 4 = 0 ↔ c.width * c.height % 4 = 0 := Iff.rfl
  simp only [Config.legal, Bool.and_eq_true, decide_eq_true_eq, List.all_eq_true, forall_mem_toList_iff, palette_nodup_iff,
    and_assoc, hmod, hlt]

/-- Settles O11: the conjuncts of `Config.legal`, the lists and vectors read entry by entry. -/
theorem legalConfigurationMeansTheListedConditions : Obligations.LegalConfigurationMeansTheListedConditions := by
  unfold Obligations.LegalConfigurationMeansTheListedConditions
  exact Config.legal_iff

theorem Config.sectionLen_pos {c : Config} (h : c.legal = true) : 0 < c.sectionLen := by
  obtain ⟨hwidth, hheight, hmod, -⟩ := (Config.legal_iff c).mp h
  have hpos : 0 < c.width * c.height := Nat.mul_pos hwidth hheight
  unfold Config.sectionLen Config.pixels
  omega

theorem Config.recolourPeriod_pos {c : Config} (h : c.legal = true) : 0 < c.recolourPeriod := by
  obtain ⟨-, -, -, -, -, hdelay, -⟩ := (Config.legal_iff c).mp h
  exact Nat.div_pos (by omega) hdelay

/-! ### The registers after reset -/

theorem SectionRegs.initial_inv {c : Config} (h : c.legal = true) (k : Fin 4) : (SectionRegs.initial c k).Inv c := by
  obtain ⟨-, -, -, -, -, -, -, -, hmodes, hpatterns⟩ := (Config.legal_iff c).mp h
  have hlen := Config.sectionLen_pos h
  have hperiod := Config.recolourPeriod_pos h
  refine ⟨?_, hpatterns k, hlen, hlen, hperiod, hlen, List.length_replicate, ?_, ?_, rfl, le_rfl, .inl rfl⟩
  · exact Nat.lt_succ_of_le (hmodes k)
  · refine ⟨List.length_replicate, List.length_replicate, List.length_replicate, ?_, Nat.zero_le 3, fun o _ => ?_⟩
    · simp [SectionRegs.initial]
    · simp [SectionRegs.initial, Phase.levels]
  · refine ⟨List.length_replicate, List.length_replicate, fun f hf => ?_⟩
    rw [List.eq_of_mem_replicate hf]
    decide

/-! ### Fireflies (10_state.md R42) -/

/-- One advance of a lit pixel takes its brightness to one that its new phase can have, and turns it off exactly where it
leaves the active set. -/
theorem ffAdvancePixel_level {ph : Phase} (hph : ph ≠ .off) {bri : BitVec 8} (hbri : bri ∈ ph.levels) :
    (ffAdvancePixel ph bri).2 ∈ (ffAdvancePixel ph bri).1.levels ∧
    ((ffAdvancePixel ph bri).1 ≠ .off ↔ ffLeaves ph bri = false) := by
  cases ph with
  | off => exact absurd rfl hph
  | fadeIn => revert bri; decide
  | fadeOut => revert bri; decide

theorem mem_ffActive {len : Nat} {x : SectionRegs} (h : x.FirefliesInv len) {o : Nat} (ho : o < len) :
    o ∈ x.ffActive ↔ x.ffPhase.getD o .off ≠ .off := by
  obtain ⟨-, -, -, hactive, -, -⟩ := h
  rw [hactive]
  simp [ho]

theorem ffAdvance_firefliesInv {len : Nat} {x : SectionRegs} (h : x.FirefliesInv len) : (ffAdvance x).FirefliesInv len := by
  have hmem {o : Nat} (ho : o < len) := mem_ffActive h ho
  obtain ⟨hcol, hphase, hbri, hactive, hthree, hlevels⟩ := h
  have hpixel (o : Nat) (ho : o < len) :
      (ffAdvance x).ffBri.getD o 0 ∈ ((ffAdvance x).ffPhase.getD o .off).levels ∧
      ((ffAdvance x).ffPhase.getD o .off ≠ .off ↔
        x.ffPhase.getD o .off ≠ .off ∧ ffLeaves (x.ffPhase.getD o .off) (x.ffBri.getD o 0) = false) := by
    rw [ffAdvance_ffBri (ho.trans_eq hbri.symm), ffAdvance_ffPhase (ho.trans_eq hphase.symm)]
    by_cases hin : o ∈ x.ffActive
    · obtain ⟨hlevel, hturn⟩ := ffAdvancePixel_level ((hmem ho).mp hin) (hlevels o ho)
      simp only [if_pos hin]
      exact ⟨hlevel, hturn.trans (iff_and_self.mpr fun _ => (hmem ho).mp hin)⟩
    · have hoff := (hmem ho).not.mp hin
      simp only [if_neg hin]
      exact ⟨hlevels o ho, iff_of_false hoff fun hon => hoff hon.1⟩
  refine ⟨hcol, by simpa [ffAdvance] using hphase, by simpa [ffAdvance] using hbri, ?_,
    (List.length_filter_le _ _).trans hthree, fun o ho => (hpixel o ho).1⟩
  change x.ffActive.filter _ = _
  rw [hactive, List.filter_filter]
  refine List.filter_congr fun o ho => ?_
  have hturn := (hpixel o (List.mem_range.mp ho)).2
  rw [Bool.eq_iff_iff, decide_eq_true_eq, hturn]
  simp [and_comm]

theorem mem_insertAscending {k o : Nat} {l : List Nat} : o ∈ insertAscending k l ↔ o = k ∨ o ∈ l := by
  induction l with
  | nil => simp [insertAscending]
  | cons j js ih =>
    unfold insertAscending
    split
    · simp
    · split
      next hkj => simp [hkj]
      · simp only [List.mem_cons, ih, or_left_comm]

theorem insertAscending_pairwise {k : Nat} {l : List Nat} (h : l.Pairwise (· < ·)) : (insertAscending k l).Pairwise (· < ·) := by
  induction l with
  | nil => simp [insertAscending]
  | cons j js ih =>
    obtain ⟨hj, hjs⟩ := List.pairwise_cons.mp h
    unfold insertAscending
    split
    next hlt => exact List.pairwise_cons.mpr ⟨fun o ho => by
      rcases List.mem_cons.mp ho with rfl | ho
      · exact hlt
      · exact hlt.trans (hj o ho), h⟩
    next hle =>
      split
      · exact h
      next hne =>
        refine List.pairwise_cons.mpr ⟨fun o ho => ?_, ih hjs⟩
        rcases mem_insertAscending.mp ho with rfl | ho
        · omega
        · exact hj o ho

theorem length_insertAscending_le (k : Nat) (l : List Nat) : (insertAscending k l).length ≤ l.length + 1 := by
  induction l with
  | nil => rfl
  | cons j js ih =>
    unfold insertAscending
    split
    · rfl
    · split
      · exact Nat.le_succ _
      · exact Nat.succ_le_succ ih

/-- Inserting into the ascending list of the elements that `p` selects is selecting the inserted element too. -/
theorem insertAscending_filter_range {k len : Nat} (hk : k < len) (p : Nat → Bool) :
    insertAscending k ((List.range len).filter p) = (List.range len).filter fun o => decide (o = k) || p o := by
  have hsorted (q : Nat → Bool) : ((List.range len).filter q).Pairwise (· < ·) := List.pairwise_lt_range.filter q
  refine (insertAscending_pairwise (hsorted p)).eq_of_mem_iff (hsorted _) fun {o} => ?_
  rw [mem_insertAscending]
  simp only [List.mem_filter, List.mem_range, Bool.or_eq_true, decide_eq_true_eq]
  constructor
  · rintro (rfl | ⟨ho, hp⟩)
    · exact ⟨hk, .inl rfl⟩
    · exact ⟨ho, .inr hp⟩
  · rintro ⟨ho, rfl | hp⟩
    · exact .inl rfl
    · exact .inr ⟨ho, hp⟩

theorem getD_set {α : Type} {l : List α} {k : Nat} (hk : k < l.length) (o : Nat) (a d : α) :
    (l.set k a).getD o d = if o = k then a else l.getD o d := by
  split
  next h => rw [h, List.getD_eq_getElem _ _ (by simpa using hk), List.getElem_set_self]
  next h => exact getD_set_of_ne (Ne.symm h) l a d

/-- A new firefly joins the ascending active set. -/
theorem ffLight_firefliesInv {len k : Nat} {x : SectionRegs} (h : x.FirefliesInv len) (hk : k < len)
    (hfew : x.ffActive.length < 3) (col : Color) : (ffLight x k col).FirefliesInv len := by
  obtain ⟨hcol, hphase, hbri, hactive, -, hlevels⟩ := h
  have phase_set (o : Nat) : (ffLight x k col).ffPhase.getD o .off = if o = k then .fadeIn else x.ffPhase.getD o .off :=
    getD_set (hk.trans_eq hphase.symm) o _ _
  have bri_set (o : Nat) : (ffLight x k col).ffBri.getD o 0 = if o = k then 0 else x.ffBri.getD o 0 :=
    getD_set (hk.trans_eq hbri.symm) o _ _
  refine ⟨by simpa [ffLight] using hcol, by simpa [ffLight] using hphase, by simpa [ffLight] using hbri, ?_,
    (length_insertAscending_le _ _).trans hfew, fun o ho => ?_⟩
  · change insertAscending k x.ffActive = _
    rw [hactive, insertAscending_filter_range hk]
    refine List.filter_congr fun o _ => ?_
    rw [phase_set]
    by_cases ho : o = k <;> simp [ho]
  · rw [phase_set, bri_set]
    by_cases hok : o = k
    · simp [hok, Phase.levels]
    · simpa only [if_neg hok] using hlevels o ho

theorem mem_ffOffs {len o : Nat} {x : SectionRegs} : o ∈ ffOffs len x ↔ o < len ∧ x.ffPhase.getD o .off = .off := by
  simp [ffOffs]

/-- The spawn either draws at most once and changes nothing, or lights one of the pixels that are off, with fewer than three
active. -/
theorem ffSpawn_cases (c : Config) (x : SectionRegs) (p : RandomPort) :
    (ffSpawn c x p).1 = x ∨
    (x.ffActive.length < 3 ∧ ∃ k ∈ ffOffs c.sectionLen x, ∃ col, (ffSpawn c x p).1 = ffLight x k col) := by
  unfold ffSpawn
  split
  next hfew =>
    simp only []
    split
    next hgo =>
      obtain ⟨-, hne⟩ := hgo
      have hj := RandomPort.draw_lt (List.length_pos_of_ne_nil hne) (p.draw 2).2
      refine .inr ⟨hfew, _, ?_, _, rfl⟩
      rw [List.getD_eq_getElem _ _ hj]
      exact List.getElem_mem hj
    · exact .inl rfl
  · exact .inl rfl

theorem ffSpawn_firefliesInv {c : Config} {x : SectionRegs} (h : x.FirefliesInv c.sectionLen) (p : RandomPort) :
    (ffSpawn c x p).1.FirefliesInv c.sectionLen := by
  obtain hkeep | ⟨hfew, k, hk, col, hlight⟩ := ffSpawn_cases c x p
  · exact hkeep.symm ▸ h
  · exact hlight.symm ▸ ffLight_firefliesInv h (mem_ffOffs.mp hk).1 hfew col

/-! ### Twinkle (10_state.md R43) -/

theorem rfSeedIfBlack_fadeInv {c : Config} {v : KernelView} (h : v.sec.FadeInv c.sectionLen) (k : Fin 4) :
    (rfSeedIfBlack c k v).sec.FadeInv c.sectionLen := by
  unfold rfSeedIfBlack
  split
  · refine ⟨drawColors_length _ _ _, List.length_replicate, fun f hf => ?_⟩
    rw [List.eq_of_mem_replicate hf]
    decide
  · exact h

theorem rfPickLoop_fadeInv {c : Config} {len : Nat} {x : SectionRegs} (h : x.FadeInv len) (m : Nat) (el : List Nat)
    (p : RandomPort) : (rfPickLoop c m el x p).1.FadeInv len := by
  induction m generalizing el x p with
  | zero => exact h
  | succ m ih =>
    obtain ⟨htgt, hfs, hle⟩ := h
    refine ih ⟨(List.length_set ..).trans htgt, (List.length_set ..).trans hfs, fun f hf => ?_⟩ _ _
    obtain hold | rfl := List.mem_or_eq_of_mem_set hf
    · exact hle f hold
    · decide

theorem rfPick_fadeInv {c : Config} {v : KernelView} (h : v.sec.FadeInv c.sectionLen) :
    (rfPick c v).sec.FadeInv c.sectionLen :=
  rfPickLoop_fadeInv h _ _ _

theorem rfUpdate_fadeInv {c : Config} {v : KernelView} (h : v.sec.FadeInv c.sectionLen) (k : Fin 4) :
    (rfUpdate c k v).sec.FadeInv c.sectionLen := by
  obtain ⟨htgt, hfs, hle⟩ := h
  refine ⟨htgt, (List.length_map _).trans hfs, fun f hf => ?_⟩
  obtain ⟨g, hg, rfl⟩ := List.mem_map.mp hf
  have hgle := hle g hg
  rw [BitVec.le_def, rfCount_toNat]
  exact (Nat.sub_le _ _).trans hgle

/-! ### DropAndStack (44_drop_and_stack.md R255) -/

theorem dsMove_stackInv {c : Config} {x : SectionRegs} (h : x.StackInv c.sectionLen) (hpos : x.dsPos ≠ -1) :
    (dsMove c x).StackInv c.sectionLen := by
  obtain ⟨hrows, hrun, hend | ⟨hone, hlow, hhigh⟩⟩ := h
  · exact absurd hend hpos
  · unfold dsMove
    split
    · split
      · exact ⟨hrows, (Nat.sub_le _ _).trans hrun, .inl rfl⟩
      · refine ⟨hrows, (Nat.sub_le _ _).trans hrun, .inr ⟨?_, ?_, le_rfl⟩⟩ <;> (dsimp only; omega)
    · refine ⟨hrows, hrun, .inr ⟨hone, ?_, ?_⟩⟩ <;> (dsimp only; omega)

/-! ### All kernels -/

/-- Every kernel leaves its section's registers legal. -/
theorem kernelRow_inv {c : Config} (hc : c.legal = true) {t : BitVec 4} {f : Config → Fin 4 → KernelView → KernelView}
    (hf : KernelRow t f) (k : Fin 4) {v : KernelView} (h : v.sec.Inv c) : (f c k v).sec.Inv c := by
  have hlen := Config.sectionLen_pos hc
  have hinv := h
  obtain ⟨hmode, hpattern, hscc, hch, hra, hro, hrd, hff, hrf, hds⟩ := h
  cases hf with
  | off | solidColor | solidPattern | rainbow => exact hinv
  | singleColorChase => exact ⟨hmode, hpattern, Nat.mod_lt _ hlen, hch, hra, hro, hrd, hff, hrf, hds⟩
  | randomAll =>
    rw [kernelRandomAll_sec]
    exact ⟨hmode, hpattern, hscc, hch, Nat.mod_lt _ (Config.recolourPeriod_pos hc), hro, hrd, hff, hrf, hds⟩
  | randomOne => exact ⟨hmode, hpattern, hscc, hch, hra, RandomPort.draw_lt hlen _, hrd, hff, hrf, hds⟩
  | raindrops => exact ⟨hmode, hpattern, hscc, hch, hra, hro, by simpa [kernelRaindrops] using hrd, hff, hrf, hds⟩
  | twinkle =>
    have hfade := rfUpdate_fadeInv (rfPick_fadeInv (rfSeedIfBlack_fadeInv hrf k)) k
    rw [kernelTwinkle_sec]
    exact ⟨hmode, hpattern, hscc, hch, hra, hro, hrd, hff, hfade, hds⟩
  | fireflies =>
    have hfire := ffSpawn_firefliesInv (ffAdvance_firefliesInv hff) v.rand
    rw [kernelFireflies_sec]
    exact ⟨hmode, hpattern, hscc, hch, hra, hro, hrd, hfire, hrf, hds⟩
  | dropAndStack =>
    have hstack : (kernelDropAndStack c k v).sec.StackInv c.sectionLen := by
      unfold kernelDropAndStack
      split
      · obtain ⟨hrows, -⟩ := hds
        refine ⟨hrows, le_rfl, .inr ⟨hlen, ?_, le_rfl⟩⟩
        dsimp only [dsStart]
        omega
      next hpos => exact dsMove_stackInv hds hpos
    rw [kernelDropAndStack_sec] at hstack ⊢
    exact ⟨hmode, hpattern, hscc, hch, hra, hro, hrd, hff, hrf, hstack⟩
  | chase => exact ⟨hmode, hpattern, hscc, Nat.mod_lt _ hlen, hra, hro, hrd, hff, hrf, hds⟩

end Sys2Proof.Machine
end

section
/-! The invariant of the block: it holds at reset, every instruction keeps it, and so does every step (10_state.md R30 to R48,
60_exceptions.md R322). -/

namespace Sys2Proof.Machine

/-! ### Reset -/

/-- A legal configuration resets to a running block with legal registers. -/
theorem State.afterReset_good {c : Config} (h : c.legal = true) (cmds : List Word) (rand : RandomPort) (d : Bool) :
    (State.afterReset c cmds rand d).Good := by
  refine ⟨h, rfl, fun k => ?_, rfl, .inl ⟨rfl, rfl⟩⟩
  rw [State.afterReset_sec]
  exact SectionRegs.initial_inv h k

/-- Settles O14: `State.reset` is the state after a reset with the default configuration, which is legal. -/
theorem invariantHoldsAtReset : Obligations.InvariantHoldsAtReset := by
  unfold Obligations.InvariantHoldsAtReset
  exact ⟨.inr (State.afterReset_good (by decide) _ _ _), fun _ _ _ _ h => .inr (State.afterReset_good h _ _ _)⟩

/-- Every reset establishes the invariant, by either of the two ways it can end. -/
theorem State.release_inv (c : Config) (s : State) : (s.release c).Inv := by
  cases hc : c.legal with
  | true =>
    rw [State.release_legal hc]
    exact .inr (State.afterReset_good hc s.cmds s.rand s.driverReady)
  | false =>
    rw [State.release_illegal hc]
    exact .inl ⟨hc, rfl, rfl⟩

/-! ### The framebuffer -/

theorem State.dispatch_canonical {s : State} (h : s.Canonical) (k : Fin 4) : (s.dispatch k).Canonical := by
  unfold State.dispatch
  split
  next hf => exact kernelOfTag_wf hf k h
  · exact h

theorem State.runSections_canonical {s : State} (h : s.Canonical) : s.runSections.Canonical :=
  State.runSections_induct (P := State.Canonical) (fun _ k hu => State.dispatch_canonical hu k) h

theorem State.render_canonical {s : State} (h : s.Canonical) : s.render.Canonical := h

/-- Settles O16: each way an instruction writes the framebuffer keeps the canonical form. -/
theorem everyInstructionKeepsTheFramebufferCanonical : Obligations.EveryInstructionKeepsTheFramebufferCanonical := by
  unfold Obligations.EveryInstructionKeepsTheFramebufferCanonical
  intro i s t h hexec
  cases exec_effect hexec with
  | nop | cursor | selectSection _ | cycleBound _ | keepMode _ | badTag _ _ => exact h
  | toggleSelect | advanceMode _ => exact fbFill_wf h _ _ _
  | overlay _ => exact fillSection_wf (fbFill_wf h _ _ _) _ _
  | sections _ _ => exact State.render_canonical (State.runSections_canonical h)
  | kernel _ hf => exact kernelOfTag_wf hf s.frameSec h

/-! ### A running block -/

section
variable {s : State} (h : s.Good)
include h

theorem State.Good.canonical : s.Canonical := h.2.1

theorem State.Good.inv (k : Fin 4) : (s.sec k).Inv s.cfg := h.2.2.1 k

theorem State.Good.mode_lt (k : Fin 4) : (s.sec k).mode < 12 := (h.inv k).1

theorem State.Good.sectionLen_pos : 0 < s.cfg.sectionLen := Config.sectionLen_pos h.1

end

theorem State.Good.runKernel {s : State} (h : s.Good) {t : BitVec 4} {f : Config → Fin 4 → KernelView → KernelView}
    (hf : kernelOfTag t = some f) (k : Fin 4) : (s.runKernel f k).Good := by
  obtain ⟨hcfg, hfb, hsecs, hpixel, hfault⟩ := h
  refine ⟨hcfg, kernelOfTag_wf hf k hfb, fun j => ?_, hpixel, hfault⟩
  rw [State.runKernel_sec]
  split
  · exact kernelRow_inv hcfg (kernelRow_of_kernelOfTag hf) k (hsecs k)
  · exact hsecs j

theorem State.Good.dispatch {s : State} (h : s.Good) (k : Fin 4) : (s.dispatch k).Good := by
  unfold State.dispatch
  split
  next hf => exact h.runKernel hf k
  · exact h

theorem State.Good.runSections {s : State} (h : s.Good) : s.runSections.Good :=
  State.runSections_induct (P := State.Good) (fun _ k hu => hu.dispatch k) h

theorem State.Good.render {s : State} (h : s.Good) : s.render.Good := h

/-- Legal registers of one section in place of others. -/
theorem State.Good.setSec {s : State} (h : s.Good) (k : Fin 4) {x : SectionRegs} (hx : x.Inv s.cfg) : (s.setSec k x).Good := by
  obtain ⟨hcfg, hfb, hsecs, hpixel, hfault⟩ := h
  refine ⟨hcfg, hfb, fun j => ?_, hpixel, hfault⟩
  rw [State.setSec_sec]
  split
  · exact hx
  · exact hsecs j

theorem State.Good.withFb {s : State} (h : s.Good) {fb : FrameBuffer} (hfb : Memory.wf s.cfg.pixels fb = true) :
    State.Good { s with fb := fb } :=
  have ⟨hcfg, _, hrest⟩ := h
  ⟨hcfg, hfb, hrest⟩

theorem nextMode_lt (t : BitVec 4) : nextMode t < 12 := by
  rw [BitVec.lt_def, nextMode_toNat]
  exact Nat.mod_lt _ (by decide)

theorem cycleBound_inv {c : Config} {x : SectionRegs} (h : x.Inv c) : (cycleBound c x).Inv c := by
  have ⟨hmode, hpattern, hrest⟩ := h
  unfold cycleBound
  split
  · exact h
  · split
    · exact ⟨hmode, (List.length_map _).trans hpattern, hrest⟩
    · exact h

/-- Every instruction keeps a running block in the invariant; its modes are legal, so FRAME raises no fault. -/
theorem State.Good.exec {i : Instr} {s t : State} (h : s.Good) (hexec : exec i s = .next t) : t.Good := by
  have hclear : Memory.wf s.cfg.pixels (fbClear s.cfg.pixels s.fb) = true := fbFill_wf h.canonical _ _ _
  cases exec_effect hexec with
  | nop | cursor | selectSection _ | keepMode _ => exact h
  | toggleSelect => exact h.withFb hclear
  | cycleBound _ => exact h.setSec _ (cycleBound_inv (h.inv _))
  | advanceMode _ =>
    have hmode : SectionRegs.Inv s.cfg { s.sec s.sel.sect with mode := nextMode (s.sec s.sel.sect).mode } :=
      ⟨nextMode_lt _, (h.inv s.sel.sect).2⟩
    exact (h.setSec s.sel.sect hmode).withFb hclear
  | overlay _ => exact h.withFb (fillSection_wf hclear _ _)
  | badTag _ hbad =>
    cases (State.badSection_none.mpr h.mode_lt).symm.trans hbad
  | sections _ _ => exact h.runSections.render
  | kernel _ hf => exact h.runKernel hf _

theorem State.Good.finish {s : State} (h : s.Good) (e : Encoded) : (s.finish e).Good := by
  cases e with
  | command w => exact h
  | tag t =>
    rw [State.finish_tag, State.advanceFrame]
    split <;> exact h

/-! ### The step -/

/-- What a block takes is a command word, or the tag of one of its sections, and taking it only shortens the port. -/
theorem State.fetch_take {s s' : State} {e : Encoded} (h : s.fetch = .take e s') :
    s' = { s with cmds := s'.cmds } ∧
    ((∃ w, e = .command w ∧ s.inFrame = false ∧ s.cmds = w :: s'.cmds) ∨
     (e = .tag (s.sec s.frameSec).mode ∧ s.inFrame = true ∧ s'.cmds = s.cmds)) := by
  rcases State.fetch_cases s with ⟨c, -, he⟩ | ⟨-, he, -⟩ | ⟨-, -, hi, he⟩ | ⟨w, ws, -, -, hi, hc, he⟩
  · cases he.symm.trans h
  · cases he.symm.trans h
  · cases he.symm.trans h
    exact ⟨rfl, .inr ⟨rfl, hi, rfl⟩⟩
  · cases he.symm.trans h
    exact ⟨rfl, .inl ⟨w, rfl, hi, hc⟩⟩

/-- Rejecting an illegal word latches it and changes nothing else. -/
theorem State.Good.reject {s : State} (h : s.Good) {w : Word}
    (hw : (Encoded.command w).wf = false) : (s.reject (.command w)).Good :=
  have ⟨hcfg, hfb, hsecs, hpixel, _⟩ := h
  ⟨hcfg, hfb, hsecs, hpixel, .inr ⟨rfl, hw⟩⟩

/-- Settles O15: a reset establishes the invariant; a rejected block is halted; a running one executes an instruction, or
rejects a word, since every mode it holds is a legal tag. -/
theorem everyStepKeepsTheInvariant : Obligations.EveryStepKeepsTheInvariant := by
  unfold Obligations.EveryStepKeepsTheInvariant
  intro s u hinv hstep
  rcases step_cases hstep with ⟨c, -, rfl⟩ | ⟨-, -, rfl⟩ | ⟨-, hvalid, e, s', i, t, he, -, hexec, rfl⟩ |
    ⟨-, hvalid, e, s', he, hd, rfl⟩
  case inl => exact State.release_inv c s
  case inr.inl => exact hinv
  all_goals
    have hgood : s.Good := by
      rcases hinv with ⟨-, hfault, -⟩ | hgood
      · simp [State.faultValid, hfault] at hvalid
      · exact hgood
    obtain ⟨hs', htaken⟩ := State.fetch_take he
    have hgood' : s'.Good := hs' ▸ hgood
  · have ht := (hgood'.exec hexec).finish e
    rcases State.orWait_cases s (t.finish e) with hw | hw
    · exact hw.symm ▸ hinv
    · exact hw.symm ▸ .inr ht
  · rcases htaken with ⟨w, rfl, -⟩ | ⟨rfl, -⟩
    · have hillegal := hd.resolve_right (decodeCommand_ne_reserved w)
      exact .inr (hgood'.reject ((decodeCommand_illegal_iff w).mp hillegal))
    · have hreserved := hd.resolve_left (decodeTag_ne_illegal _)
      exact absurd (hgood.mode_lt s.frameSec) ((decodeTag_reserved_iff _).mp hreserved)

end Sys2Proof.Machine
end

section
/-! Decoding and encoding of both formats (30_encoding.md R101 to R106), and the step of a taken instruction (20_memory.md R77). -/

namespace Sys2Proof.Machine

/-! ### Command words -/

theorem op_append_rsvd (w : Word) : w.op ++ w.rsvd = w := by
  refine (BitVec.extractLsb'_append_extractLsb'_eq_extractLsb' rfl).trans ?_
  exact BitVec.extractLsb'_eq_self

/-- An opcode below 6 decodes to the command at its place in the opcode map, whose encoding has it on top. -/
theorem decodeOp_of_lt {op : BitVec 4} (h : op.toNat < 6) :
    ∃ i : Instr, [Instr.nop, .frame, .toggleSelect, .button2, .nextMode, .cursor][op.toNat]? = some i ∧
      decodeOp op = .instr i ∧ encode i = .command (op ++ (0 : BitVec 28)) := by
  have hop : op = 0 ∨ op = 1 ∨ op = 2 ∨ op = 3 ∨ op = 4 ∨ op = 5 := by
    revert h; revert op; decide
  rcases hop with rfl | rfl | rfl | rfl | rfl | rfl <;> exact ⟨_, rfl, rfl, rfl⟩

theorem decodeCommand_of_fields {w : Word} (hrsvd : w.rsvd = 0) (hop : w.op.toNat < 6) :
    ∃ i : Instr, [Instr.nop, .frame, .toggleSelect, .button2, .nextMode, .cursor][w.op.toNat]? = some i ∧
      decodeCommand w = .instr i ∧ encode i = .command w := by
  obtain ⟨i, hmap, hdecode, hencode⟩ := decodeOp_of_lt hop
  refine ⟨i, hmap, ?_, ?_⟩
  · rw [decodeCommand, if_neg (not_not.mpr hrsvd), hdecode]
  · rw [hencode, ← hrsvd, op_append_rsvd]

theorem commandWf_iff (w : Word) : (Encoded.command w).wf = true ↔ w.rsvd = 0 ∧ w.op.toNat < 6 := by
  simp [Encoded.wf, BitVec.lt_def]

/-- A word that decodes to an instruction is the encoding of that instruction. -/
theorem encode_of_decodeCommand {w : Word} {i : Instr} (h : decodeCommand w = .instr i) : encode i = .command w := by
  have hwf : (Encoded.command w).wf = true := by
    rw [← Bool.not_eq_false, ← decodeCommand_illegal_iff, h]
    exact Decoded.noConfusion
  obtain ⟨hrsvd, hop⟩ := (commandWf_iff w).mp hwf
  obtain ⟨j, -, hdecode, hencode⟩ := decodeCommand_of_fields hrsvd hop
  cases h.symm.trans hdecode
  exact hencode

/-- Settles O1: the two fields decide; an illegal word is rejected, a legal one is its opcode over a zero field. -/
theorem commandWordDecodesByItsFields : Obligations.CommandWordDecodesByItsFields := by
  unfold Obligations.CommandWordDecodesByItsFields
  refine fun w => ⟨fun hfields => ?_, fun ⟨hrsvd, hop⟩ => decodeCommand_of_fields hrsvd hop⟩
  have hwf : (Encoded.command w).wf = false := Bool.eq_false_iff.mpr ((commandWf_iff w).not.mpr hfields)
  have hillegal : decode (.command w) = .illegalCommand := (decodeCommand_illegal_iff w).mpr hwf
  refine ⟨hillegal, fun s ws ⟨hrst, hvalid, hframe, hcmds⟩ => ?_⟩
  exact step_reject (State.fetch_command hrst hvalid hframe hcmds) (.inl hillegal)

/-- Settles O3, row by row. -/
theorem decodeUndoesEncode : Obligations.DecodeUndoesEncode := by
  unfold Obligations.DecodeUndoesEncode
  intro i _
  cases i <;> rfl

/-- Settles O4, by evaluating the decoder on each of the words. -/
theorem tableWordsDecodeToTheirRows : Obligations.TableWordsDecodeToTheirRows := by
  unfold Obligations.TableWordsDecodeToTheirRows
  decide

/-! ### The step of a taken instruction -/

/-- A taken command runs on the state without its word, or waits. -/
theorem step_command {s t : State} {w : Word} {ws : List Word} {i : Instr} (htakes : s.TakesCommand w ws)
    (hd : decode (.command w) = .instr i) (hexec : exec i { s with cmds := ws } = .next t) :
    step s = .next (s.orWait t) := by
  obtain ⟨hrst, hvalid, hframe, hcmds⟩ := htakes
  exact step_take (State.fetch_command hrst hvalid hframe hcmds) hd hexec

/-- A kernel stepped inside a FRAME runs and the loop goes on, or it waits. -/
theorem step_kernel {s t : State} {i : Instr} (hrst : s.rst = none) (hvalid : s.faultValid = false)
    (hframe : s.inFrame = true) (hd : decode (.tag (s.sec s.frameSec).mode) = .instr i) (hexec : exec i s = .next t) :
    step s = .next (s.orWait t.advanceFrame) :=
  step_take (State.fetch_kernel hrst hvalid hframe) hd hexec

/-- Settles O6: a served block does not wait, and a kernel leaves the section in turn as it is. -/
theorem stepRunsTheDecodedInstruction : Obligations.StepRunsTheDecodedInstruction := by
  unfold Obligations.StepRunsTheDecodedInstruction
  refine ⟨fun s w ws i htakes hserved _ hd => ?_, fun s t i hrst hvalid hframe hserved _ hd hexec => ?_⟩
  · obtain ⟨t, hexec⟩ := exec_next i { s with cmds := ws }
    rw [step_command htakes hd hexec, State.orWait_served hserved, hexec]
  · have hsec : t.frameSec = s.frameSec := congrArg (·.frameSec) (exec_kernel_unchanged (decodeTag_mem_modeList hd) hexec)
    rw [step_kernel hrst hvalid hframe hd hexec, State.orWait_served hserved, State.advanceFrame, hsec]

/-- Settles O10: a fetch that takes something either rejects it or executes an instruction, and `exec` is total. -/
theorem everyStepHasANextState : Obligations.EveryStepHasANextState := by
  unfold Obligations.EveryStepHasANextState
  intro s
  cases hfetch : s.fetch with
  | release c => exact ⟨s.release c, by simp [step, hfetch]⟩
  | quiet => exact ⟨s, step_quiet hfetch⟩
  | take e s' =>
    cases hd : decode e with
    | instr i =>
      obtain ⟨t, hexec⟩ := exec_next i s'
      exact ⟨_, step_take hfetch hd hexec⟩
    | illegalCommand => exact ⟨_, step_reject hfetch (.inl hd)⟩
    | reservedTag => exact ⟨_, step_reject hfetch (.inr hd)⟩

/-! ### Reserved tags -/

theorem find?_sections_eq_some (p : Fin 4 → Bool) (k : Fin 4) :
    ([0, 1, 2, 3] : List (Fin 4)).find? p = some k ↔ p k = true ∧ ∀ j < k, p j = false := by
  revert p k; decide

theorem State.badSection_some {s : State} {k : Fin 4} :
    s.badSection = some k ↔ 12 ≤ (s.sec k).mode ∧ ∀ j < k, (s.sec j).mode < 12 := by
  rw [State.badSection, find?_sections_eq_some]
  simp [BitVec.not_le]

theorem tagInfo_toNat (k : Fin 4) (t : BitVec 4) : (tagInfo k t).toNat = 16 * k.val + t.toNat := by
  revert k t; decide

/-- Settles O29: the mode check finds the lowest section with a reserved tag and raises its fault. -/
theorem normalFrameRefusesAReservedTag : Obligations.NormalFrameRefusesAReservedTag := by
  unfold Obligations.NormalFrameRefusesAReservedTag
  intro s k hnorm hreserved hlower
  have hbad := State.badSection_some.mpr ⟨hreserved, hlower⟩
  exact ⟨tagInfo k (s.sec k).mode, exec_frame_badTag hnorm hbad, tagInfo_toNat k _⟩

/-! ### Precise faults -/

/-- Only FRAME writes `FAULT`, and only by the mode check. -/
theorem exec_fault {i : Instr} {s t : State} (h : exec i s = .next t) :
    t.fault = s.fault ∨
    (i = .frame ∧ s.sel.selecting = false ∧ ∃ k, s.badSection = some k ∧
      t = { s with fault := 10, faultInfo := tagInfo k (s.sec k).mode }) := by
  by_cases hi : i = .frame
  · subst hi
    cases exec_effect h with
    | overlay _ => exact .inl rfl
    | badTag hnorm hbad => exact .inr ⟨rfl, hnorm, _, hbad, rfl⟩
    | sections _ _ => exact .inl (s.runSections.render_fault.trans (congrArg (·.fault) s.runSections_frame))
    | kernel hd _ => exact absurd (decodeTag_mem_modeList hd) (by decide)
  · exact .inl (congrArg (·.fault) (exec_ne_frame_unchanged hi h))

theorem State.finish_fault (s : State) (e : Encoded) : (s.finish e).fault = s.fault := by
  cases e with
  | command w => rfl
  | tag t =>
    rw [State.finish_tag, State.advanceFrame]
    split <;> rfl

/-- From `s` to `t` nothing changed but the fault registers and the command port, and the fault of `t` records its cause: an illegal
word, or a reserved tag at a FRAME or in the section in turn (60_exceptions.md R321, R323, R324). -/
abbrev PreciseFault (s t : State) : Prop :=
  t = { s with fault := t.fault, faultInfo := t.faultInfo, cmds := t.cmds } ∧
  ((t.fault = 9 ∧ s.inFrame = false ∧ s.cmds = t.faultInfo :: t.cmds ∧ decode (.command t.faultInfo) = .illegalCommand) ∨
   (t.fault = 10 ∧ ∃ k : Fin 4, 12 ≤ (s.sec k).mode ∧ t.faultInfo.toNat = 16 * k.val + (s.sec k).mode.toNat ∧
     ((s.inFrame = false ∧ s.cmds = 0x10000000 :: t.cmds ∧ s.sel.selecting = false ∧ ∀ j, j < k → (s.sec j).mode < 12) ∨
      (s.inFrame = true ∧ k = s.frameSec ∧ t.cmds = s.cmds))))

/-- What a block rejects, it has just fetched. -/
theorem reject_preciseFault {s s' : State} {e : Encoded} (he : s.fetch = .take e s')
    (hd : decode e = .illegalCommand ∨ decode e = .reservedTag) : PreciseFault s (s'.reject e) := by
  obtain ⟨hs', htaken⟩ := State.fetch_take he
  obtain ⟨cmds, rfl⟩ : ∃ ws, s' = { s with cmds := ws } := ⟨_, hs'⟩
  rcases htaken with ⟨w, rfl, hframe, hcmds⟩ | ⟨rfl, hframe, hcmds⟩
  · exact ⟨rfl, .inl ⟨rfl, hframe, hcmds, hd.resolve_right (decodeCommand_ne_reserved w)⟩⟩
  · have hreserved := (decodeTag_reserved_iff _).mp (hd.resolve_left (decodeTag_ne_illegal _))
    exact ⟨rfl, .inr ⟨rfl, s.frameSec, BitVec.not_lt.mp hreserved, tagInfo_toNat _ _, .inr ⟨hframe, rfl, hcmds⟩⟩⟩

/-- A taken instruction that writes `FAULT` is a FRAME word, and its mode check has failed. -/
theorem exec_preciseFault {s s' t : State} {e : Encoded} {i : Instr} (he : s.fetch = .take e s') (hd : decode e = .instr i)
    (hexec : exec i s' = .next t) (hfault : (t.finish e).fault ≠ s.fault) : PreciseFault s (t.finish e) := by
  obtain ⟨hs', htaken⟩ := State.fetch_take he
  obtain ⟨cmds, rfl⟩ : ∃ ws, s' = { s with cmds := ws } := ⟨_, hs'⟩
  obtain hsame | ⟨rfl, hnorm, k, hbad, rfl⟩ := exec_fault hexec
  · exact absurd ((State.finish_fault t e).trans hsame) hfault
  · rcases htaken with ⟨w, rfl, hframe, hcmds⟩ | ⟨rfl, -⟩
    · obtain rfl : 0x10000000 = w := by simpa [encode] using encode_of_decodeCommand hd
      obtain ⟨hreserved, hlower⟩ := State.badSection_some.mp hbad
      exact ⟨rfl, .inr ⟨rfl, k, hreserved, tagInfo_toNat k _, .inl ⟨hframe, hcmds, hnorm, hlower⟩⟩⟩
    · exact absurd (decodeTag_mem_modeList hd) (by decide)

/-- Settles O9: a step that latches a fault rejects what it takes, or runs a FRAME that fails the mode check. -/
theorem faultsArePrecise : Obligations.FaultsArePrecise := by
  unfold Obligations.FaultsArePrecise
  intro s u hstep hrst hvalid hlatched
  have hfault : u.fault ≠ s.fault := by
    intro hsame
    rw [State.faultValid, hsame] at hlatched
    exact Bool.false_ne_true (hvalid.symm.trans hlatched)
  change PreciseFault s u
  rcases step_cases hstep with ⟨c, hc, -⟩ | ⟨-, -, rfl⟩ | ⟨-, -, e, s', i, t, he, hd, hexec, rfl⟩ | ⟨-, -, e, s', he, hd, rfl⟩
  · cases hrst.symm.trans hc
  · exact absurd rfl hfault
  · rcases State.orWait_cases s (t.finish e) with hw | hw
    · exact absurd (congrArg _ hw) hfault
    · rw [hw] at hfault ⊢
      exact exec_preciseFault he hd hexec hfault
  · exact reject_preciseFault he hd

end Sys2Proof.Machine
end

section
/-! RandomAll, RandomOne and Raindrops: their draws, their pixels and their registers (43_random_kernels.md R200 to R207), and the
draws of a random colour (40_color_units.md R136, R137, R140). -/

namespace Sys2Proof.Machine

/-! ### Draws -/

/-- Settles O41: the laws of a draw, and the two colours as the draws they take. -/
theorem randomColoursTakeTheirDraws : Obligations.RandomColoursTakeTheirDraws := by
  unfold Obligations.RandomColoursTakeTheirDraws
  refine ⟨fun n p h => RandomPort.draw_lt h p, fun n v h => RandomPort.draw_any h, fun c p h => ?_, fun c p h => ?_,
    paletteColor_eq⟩
  · rw [randomColor_eq, drawnColor, if_pos h, Config.colorDraws, if_pos h]
  · have hne : ¬ c.restrictRandom = true := by rw [h]; exact Bool.false_ne_true
    rw [randomColor_eq, drawnColor, if_neg hne, Config.colorDraws, if_neg hne]

/-- What a kernel changes, with its registers and its draws written out. -/
theorem State.runKernel_eq {f : Config → Fin 4 → KernelView → KernelView} {k : Fin 4} {s : State} {x : SectionRegs}
    {p : RandomPort} (hsec : (f s.cfg k (s.view k)).sec = x) (hrand : (f s.cfg k (s.view k)).rand = p) :
    s.runKernel f k = { s with fb := (s.runKernel f k).fb, rand := p, secs := s.secs.set k x } := by
  subst hsec hrand
  rfl

/-! ### RandomAll -/

theorem drawPaletteColors_eq (c : Config) (n : Nat) (p : RandomPort) : drawColors (paletteColor c) n p =
    ((List.range n).map fun i => c.pal (BitVec.ofNat 3 (p.raw i % 8)), p.after n) := by
  have h := drawColors_eq (m := 1) (paletteColor_eq c) n p
  simpa using h

theorem getD_map_range {α : Type} (f : Nat → α) (d : α) {i n : Nat} (h : i < n) : ((List.range n).map f).getD i d = f i := by
  rw [List.getD_eq_getElem _ _ (by simpa using h), List.getElem_map, List.getElem_range]

section
variable {c : Config} {k : Fin 4} {v : KernelView}

theorem read_kernelRandomAll_recolour (h : Memory.wf c.pixels v.fb = true) (hcnt : v.sec.raCnt = 0) (i : Nat) :
    Memory.read (kernelRandomAll c k v).fb i =
      if InSection c k i then c.pal (BitVec.ofNat 3 (v.rand.raw (i - c.sectionStart k) % 8)) else Memory.read v.fb i := by
  rw [kernelRandomAll, if_pos hcnt, drawPaletteColors_eq]
  refine (read_fillSection h k _ i).trans (ite_congr rfl (fun hin => ?_) fun _ => rfl)
  exact getD_map_range _ _ (Nat.sub_lt_left_of_lt_add hin.1 hin.2)

theorem kernelRandomAll_rand (hcnt : v.sec.raCnt = 0) : (kernelRandomAll c k v).rand = v.rand.after c.sectionLen := by
  rw [kernelRandomAll, if_pos hcnt, drawPaletteColors_eq]

theorem kernelRandomAll_keeps (hcnt : v.sec.raCnt ≠ 0) :
    (kernelRandomAll c k v).fb = v.fb ∧ (kernelRandomAll c k v).rand = v.rand := by
  rw [kernelRandomAll, if_neg hcnt]
  exact ⟨rfl, rfl⟩

/-- The counter goes round modulo `P` (43_random_kernels.md R201). -/
theorem kernelRandomAll_iterate_raCnt (h : v.sec.raCnt < c.recolourPeriod) (n : Nat) :
    ((kernelRandomAll c k)^[n] v).sec.raCnt = (v.sec.raCnt + n) % c.recolourPeriod := by
  induction n with
  | zero => exact (Nat.mod_eq_of_lt h).symm
  | succ n ih => rw [Function.iterate_succ_apply', kernelRandomAll_sec, ih, Nat.mod_add_mod, Nat.add_assoc]

theorem kernelRandomAll_iterate_wf (h : Memory.wf c.pixels v.fb = true) (n : Nat) :
    Memory.wf c.pixels ((kernelRandomAll c k)^[n] v).fb = true := by
  induction n with
  | zero => exact h
  | succ n ih =>
    rw [Function.iterate_succ_apply']
    exact kernelOfTag_wf (t := 5) rfl k ih

end

/-- Settles O42: the two branches of the counter, with the registers of `kernelRandomAll_sec`. -/
theorem randomAllRecoloursWhenItsCounterIsZero : Obligations.RandomAllRecoloursWhenItsCounterIsZero := by
  unfold Obligations.RandomAllRecoloursWhenItsCounterIsZero
  intro s hfb
  refine ⟨s.runKernel kernelRandomAll s.frameSec, rfl, fun hcnt => ⟨?_, ?_⟩, fun hcnt => ?_,
    State.runKernel_eq (kernelRandomAll_sec ..) rfl⟩
  · exact read_kernelRandomAll_recolour (v := s.view s.frameSec) hfb hcnt
  · exact kernelRandomAll_rand (v := s.view s.frameSec) hcnt
  · exact kernelRandomAll_keeps (v := s.view s.frameSec) hcnt

/-- Settles O43: a counter modulo `P` is 0 at exactly one of `P` successive frames. -/
theorem randomAllRecoloursOncePerPeriod : Obligations.RandomAllRecoloursOncePerPeriod := by
  unfold Obligations.RandomAllRecoloursOncePerPeriod
  intro c k v hfb hcnt
  obtain ⟨n, ⟨hn, hzero⟩, hunique⟩ := existsUnique_add_mod_eq hcnt (Nat.zero_lt_of_lt hcnt)
  have hn0 := (kernelRandomAll_iterate_raCnt (k := k) hcnt n).trans hzero
  refine ⟨n, hn, hn0, ?_, fun o ho => ?_, fun m hm hne => ?_⟩
  · rw [Function.iterate_succ_apply']
    exact kernelRandomAll_rand hn0
  · rw [Function.iterate_succ_apply', readSection,
      read_kernelRandomAll_recolour (kernelRandomAll_iterate_wf hfb n) hn0, if_pos (inSection_add k ho), Nat.add_sub_cancel_left]
  · have hm0 : ((kernelRandomAll c k)^[m] v).sec.raCnt ≠ 0 := by
      rw [kernelRandomAll_iterate_raCnt hcnt]
      exact fun h0 => hne (hunique m ⟨hm, h0⟩)
    obtain ⟨hkfb, hkrand⟩ := kernelRandomAll_keeps (c := c) (k := k) hm0
    rw [Function.iterate_succ_apply']
    exact ⟨hm0, hkrand, hkfb⟩

/-! ### RandomOne -/

theorem kernelRandomOne_eq (c : Config) (k : Fin 4) (v : KernelView) : kernelRandomOne c k v =
    ⟨{ v.sec with roLast := v.rand.raw 0 % c.sectionLen },
      fbWrite c.pixels v.fb (c.sectionStart k + v.rand.raw 0 % c.sectionLen) (drawnColor c v.rand 1),
      v.rand.after (1 + c.colorDraws)⟩ := by
  simp [kernelRandomOne, RandomPort.draw_eq, randomColor_eq]

/-- Settles O44: one write at the drawn pixel, in the colour of the draws after it. -/
theorem randomOneRecoloursOnePixel : Obligations.RandomOneRecoloursOnePixel := by
  unfold Obligations.RandomOneRecoloursOnePixel
  intro s hfb hlen
  have heq := kernelRandomOne_eq s.cfg s.frameSec (s.view s.frameSec)
  have hsec : (s.runKernel kernelRandomOne s.frameSec).sec s.frameSec =
      { s.sec s.frameSec with roLast := s.rand.raw 0 % s.cfg.sectionLen } := by
    rw [State.runKernel_sec, if_pos rfl, heq]
    rfl
  refine ⟨s.runKernel kernelRandomOne s.frameSec, rfl, by rw [hsec], fun i => ?_, ?_⟩
  · rw [hsec, State.runKernel_fb, heq]
    exact read_fbWrite_inSection hfb s.frameSec (Nat.mod_lt _ hlen) _ i
  · rw [hsec]
    exact State.runKernel_eq (by rw [heq]; rfl) (by rw [heq]; rfl)

/-! ### Raindrops -/

theorem decayChannel_toNat (ch : Byte) : (decayChannel ch).toNat = ch.toNat - 10 :=
  (BitVec.toNat_ofNat ..).trans (Nat.mod_eq_of_lt ((Nat.sub_le _ _).trans_lt ch.isLt))

/-- The stored colours of a section with the drawn pixel set, before their decay (43_random_kernels.md R207). -/
def rdShown (c : Config) (v : KernelView) : List Color :=
  v.sec.rdCol.set (v.rand.raw 0 % c.sectionLen) (drawnColor c v.rand 1)

theorem kernelRaindrops_eq (c : Config) (k : Fin 4) (v : KernelView) : kernelRaindrops c k v =
    ⟨{ v.sec with rdCol := (rdShown c v).map decay }, fillSection c k v.fb fun i => (rdShown c v).getD i Color.black,
      v.rand.after (1 + c.colorDraws)⟩ := by
  simp [kernelRaindrops, rdShown, RandomPort.draw_eq, randomColor_eq]

theorem getD_map_decay (l : List Color) (o : Nat) : (l.map decay).getD o Color.black = decay (l.getD o Color.black) :=
  List.getD_map l Color.black decay

/-- Settles O45: the picture shows `rdShown`, whose colours the section then keeps decayed. -/
theorem raindropsShowsThenDecays : Obligations.RaindropsShowsThenDecays := by
  unfold Obligations.RaindropsShowsThenDecays
  intro s hfb hlen hcol
  have heq := kernelRaindrops_eq s.cfg s.frameSec (s.view s.frameSec)
  have hsec : (s.runKernel kernelRaindrops s.frameSec).sec s.frameSec =
      { s.sec s.frameSec with rdCol := (rdShown s.cfg (s.view s.frameSec)).map decay } := by
    rw [State.runKernel_sec, if_pos rfl, heq]
    rfl
  refine ⟨s.runKernel kernelRaindrops s.frameSec, fun o => (rdShown s.cfg (s.view s.frameSec)).getD o Color.black, rfl,
    fun o => ?_, fun i => ?_, ?_, fun o _ => ?_, ?_⟩
  · exact getD_set ((Nat.mod_lt _ hlen).trans_eq hcol.symm) o _ _
  · rw [State.runKernel_fb, heq]
    exact read_fillSection hfb s.frameSec _ i
  · rw [hsec]
    simpa [rdShown] using hcol
  · rw [hsec]
    dsimp only
    rw [getD_map_decay]
    exact ⟨decayChannel_toNat _, decayChannel_toNat _, decayChannel_toNat _⟩
  · rw [hsec]
    exact State.runKernel_eq (by rw [heq]; rfl) (by rw [heq]; rfl)

end Sys2Proof.Machine
end

section
/-! Output and draws: what an instruction adds to the trace and takes from the random source, and when the block waits for the
driver or the source (20_memory.md R85, 70_reset_and_hazards.md R366; log 7). -/

namespace Sys2Proof.Machine

/-- `t` has the events of `s` and perhaps more, and the random source of `s` after some draws. -/
structure State.Extends (s t : State) : Prop where
  trace : s.trace <+: t.trace
  rand : ∃ m, t.rand = s.rand.after m

theorem State.Extends.refl (s : State) : s.Extends s := ⟨List.prefix_rfl, 0, (RandomPort.after_zero _).symm⟩

theorem State.Extends.trans {s t u : State} (hst : s.Extends t) (htu : t.Extends u) : s.Extends u := by
  obtain ⟨htrace, m, hm⟩ := hst
  obtain ⟨htrace', n, hn⟩ := htu
  exact ⟨htrace.trans htrace', m + n, by rw [hn, hm, RandomPort.after_after]⟩

theorem State.Extends.taken_le {s t : State} (h : s.Extends t) : s.rand.taken ≤ t.rand.taken := by
  obtain ⟨m, hm⟩ := h.rand
  rw [hm]
  exact Nat.le_add_right _ m

/-! ### Instructions -/

theorem State.runKernel_extends {t : BitVec 4} {f : Config → Fin 4 → KernelView → KernelView} (hf : kernelOfTag t = some f)
    (s : State) (k : Fin 4) : s.Extends (s.runKernel f k) :=
  ⟨List.prefix_rfl, kernelOfTag_after hf s.cfg k (s.view k)⟩

theorem State.dispatch_extends (s : State) (k : Fin 4) : s.Extends (s.dispatch k) := by
  unfold State.dispatch
  split
  next hf => exact State.runKernel_extends hf s k
  · exact .refl s

theorem State.runSections_extends (s : State) : s.Extends s.runSections :=
  State.runSections_induct (P := s.Extends) (fun u k hu => hu.trans (u.dispatch_extends k)) (.refl s)

theorem State.render_extends (s : State) : s.Extends s.render := ⟨List.prefix_append .., 0, (RandomPort.after_zero _).symm⟩

theorem exec_extends {i : Instr} {s t : State} (h : exec i s = .next t) : s.Extends t := by
  have same {u : State} (htrace : u.trace = s.trace) (hrand : u.rand = s.rand) : s.Extends u :=
    ⟨htrace ▸ List.prefix_rfl, 0, hrand.trans (RandomPort.after_zero _).symm⟩
  cases exec_effect h with
  | nop | cursor | toggleSelect | selectSection _ | cycleBound _ | keepMode _ | advanceMode _ | badTag _ _ =>
    exact same rfl rfl
  | overlay _ => exact (same (u := s.overlay) rfl rfl).trans s.overlay.render_extends
  | sections _ _ => exact s.runSections_extends.trans s.runSections.render_extends
  | kernel _ hf => exact s.runKernel_extends hf s.frameSec

theorem State.finish_extends (s : State) (e : Encoded) : s.Extends (s.finish e) := by
  cases e with
  | command w => exact .refl s
  | tag t =>
    rw [State.finish_tag, State.advanceFrame]
    split
    · exact ⟨s.render_extends.trace, s.render_extends.rand⟩
    · exact ⟨List.prefix_rfl, 0, (RandomPort.after_zero _).symm⟩

/-! ### Waiting -/

/-- Of a result that extends the state, the driver sees whether it has another trace, and the source whether it is another. -/
theorem State.orWait_eq {s t : State} (h : s.Extends t) :
    s.orWait t = if (s.driverReady = false ∧ t.trace ≠ s.trace) ∨ (s.rand.answering = false ∧ t.rand ≠ s.rand) then s else t := by
  have htrace : t.trace.length = s.trace.length ↔ t.trace = s.trace :=
    ⟨fun hlen => (h.trace.eq_of_length hlen.symm).symm, congrArg _⟩
  have hrand : t.rand.taken = s.rand.taken ↔ t.rand = s.rand := by
    refine ⟨fun htaken => ?_, congrArg _⟩
    obtain ⟨m, hm⟩ := h.rand
    obtain rfl : m = 0 := by rw [hm, RandomPort.after_taken] at htaken; omega
    rw [hm, RandomPort.after_zero]
  simp [State.orWait, htrace, hrand]

theorem State.orWait_waits {s t : State} (h : s.Extends t)
    (hwait : (s.driverReady = false ∧ t.trace ≠ s.trace) ∨ (s.rand.answering = false ∧ t.rand ≠ s.rand)) : s.orWait t = s := by
  rw [State.orWait_eq h, if_pos hwait]

/-- What stands after waiting has emitted nothing to a driver, and drawn nothing from a source, that does not answer. -/
theorem State.orWait_quiet {s t : State} (h : s.Extends t) :
    (s.driverReady = false → (s.orWait t).trace = s.trace) ∧ (s.rand.answering = false → (s.orWait t).rand = s.rand) := by
  rw [State.orWait_eq h]
  split
  · exact ⟨fun _ => rfl, fun _ => rfl⟩
  next hgo =>
    obtain ⟨htrace, hrand⟩ := not_or.mp hgo
    exact ⟨fun hd => not_not.mp fun hne => htrace ⟨hd, hne⟩, fun ha => not_not.mp fun hne => hrand ⟨ha, hne⟩⟩

/-! ### FRAME and the stepped kernel -/

/-- A rendered frame ends in a flush, so it is never empty. -/
theorem State.render_trace_ne (s : State) : s.render.trace ≠ s.trace := by
  simp [frameEvents]

/-- RandomOne and Raindrops draw in every frame. -/
theorem State.dispatch_taken_lt {s : State} {k : Fin 4} (h : (s.sec k).mode = 6 ∨ (s.sec k).mode = 7) :
    s.rand.taken < (s.dispatch k).rand.taken := by
  have hdraws : (s.dispatch k).rand = s.rand.after (1 + s.cfg.colorDraws) := by
    obtain hmode | hmode := h
    · rw [State.dispatch_eq (f := kernelRandomOne) (by rw [hmode]; rfl)]
      exact congrArg (·.rand) (kernelRandomOne_eq s.cfg k (s.view k))
    · rw [State.dispatch_eq (f := kernelRaindrops) (by rw [hmode]; rfl)]
      exact congrArg (·.rand) (kernelRaindrops_eq s.cfg k (s.view k))
  rw [hdraws, RandomPort.after_taken]
  omega

/-- A section in one of these modes makes the whole loop draw. -/
theorem State.runSections_rand_ne {s : State} {k : Fin 4} (h : (s.sec k).mode = 6 ∨ (s.sec k).mode = 7) :
    s.runSections.rand ≠ s.rand := by
  obtain ⟨u, hbefore, hafter⟩ := s.runSections_split k
  obtain ⟨hlow, hsec⟩ := hbefore.induct (P := fun u => s.Extends u ∧ u.sec k = s.sec k)
    (fun u j hj hu => ⟨hu.1.trans (u.dispatch_extends j), (u.dispatch_sec_ne hj.ne').trans hu.2⟩) ⟨.refl s, rfl⟩
  have hhigh := hafter.induct (P := (u.dispatch k).Extends) (fun t j _ ht => ht.trans (t.dispatch_extends j)) (.refl _)
  have hdraws := State.dispatch_taken_lt (hsec.symm ▸ h)
  have hlt := hlow.taken_le.trans_lt (hdraws.trans_le hhigh.taken_le)
  exact fun heq => hlt.ne' (congrArg (·.taken) heq)

/-- A taken command that would emit or draw where nothing answers waits. -/
theorem step_command_waits {s t : State} {w : Word} {ws : List Word} {i : Instr} (htakes : s.TakesCommand w ws)
    (hd : decode (.command w) = .instr i) (hexec : exec i { s with cmds := ws } = .next t)
    (hwait : (s.driverReady = false ∧ t.trace ≠ s.trace) ∨ (s.rand.answering = false ∧ t.rand ≠ s.rand)) :
    step s = .next s := by
  have hext : s.Extends t := ⟨(exec_extends hexec).trace, (exec_extends hexec).rand⟩
  rw [step_command htakes hd hexec, State.orWait_waits hext hwait]

/-- A stepped kernel that would draw, or is followed by the pixel writer, waits where nothing answers. -/
theorem step_kernel_waits {s t : State} {i : Instr} (hrst : s.rst = none) (hvalid : s.faultValid = false)
    (hframe : s.inFrame = true) (hd : decode (.tag (s.sec s.frameSec).mode) = .instr i) (hexec : exec i s = .next t)
    (hwait : (s.driverReady = false ∧ s.frameSec = 3) ∨ (s.rand.answering = false ∧ t.rand ≠ s.rand)) :
    step s = .next s := by
  have hframe_eq := exec_kernel_unchanged (decodeTag_mem_modeList hd) hexec
  have hsec : t.frameSec = s.frameSec := congrArg (·.frameSec) hframe_eq
  have htrace : t.trace = s.trace := congrArg (·.trace) hframe_eq
  rw [step_kernel hrst hvalid hframe hd hexec]
  refine congrArg _ (State.orWait_waits ((exec_extends hexec).trans (t.finish_extends (.tag 0))) ?_)
  refine hwait.imp (fun ⟨hdriver, hlast⟩ => ⟨hdriver, ?_⟩) (fun ⟨hsource, hdrew⟩ => ⟨hsource, ?_⟩)
  · rw [State.advanceFrame, if_pos (hsec.trans hlast), ← htrace]
    exact t.render_trace_ne
  · rw [State.advanceFrame]
    split <;> exact hdrew

/-- A FRAME that passes the mode check emits. -/
theorem exec_frame_trace_ne {s : State} (h : s.sel.selecting = true ∨ ∀ k, (s.sec k).mode < 12) :
    ∃ t, exec .frame s = .next t ∧ t.trace ≠ s.trace := by
  obtain ⟨u, hexec, hu⟩ := exec_frame_renders h
  have htrace : u.trace = s.trace := congrArg (·.trace) hu
  exact ⟨u.render, hexec, htrace ▸ u.render_trace_ne⟩

/-- A Normal FRAME with a section in RandomOne or Raindrops draws. -/
theorem exec_frame_rand_ne {s : State} (hnorm : s.sel.selecting = false) (hlegal : ∀ k, (s.sec k).mode < 12) {k : Fin 4}
    (hk : (s.sec k).mode = 6 ∨ (s.sec k).mode = 7) : ∃ t, exec .frame s = .next t ∧ t.rand ≠ s.rand := by
  refine ⟨s.runSections.render, exec_frame_normal hnorm hlegal, ?_⟩
  rw [State.render_rand]
  exact State.runSections_rand_ne hk

/-- Settles O7: an instruction only adds events and draws, so the wait compares traces and sources; a FRAME renders a frame that
is never empty, and RandomOne and Raindrops always draw. -/
theorem unservedBlockEmitsAndDrawsNothing : Obligations.UnservedBlockEmitsAndDrawsNothing := by
  unfold Obligations.UnservedBlockEmitsAndDrawsNothing
  refine ⟨fun s u hstep hrst => ?_, fun s t w ws i => step_command_waits, fun s t i => step_kernel_waits,
    fun s ws htakes => ⟨fun hdriver hrenders => ?_, fun hsource hnorm hlegal ⟨k, hk⟩ => ?_⟩⟩
  · rcases step_cases hstep with ⟨c, hc, -⟩ | ⟨-, -, rfl⟩ | ⟨-, -, e, s', i, t, he, -, hexec, rfl⟩ | ⟨-, -, e, s', he, -, rfl⟩
    · cases hrst.symm.trans hc
    · exact ⟨fun _ => rfl, fun _ => rfl⟩
    · obtain ⟨cmds, rfl⟩ : ∃ ws, s' = { s with cmds := ws } := ⟨_, (State.fetch_take he).1⟩
      have hext := (exec_extends hexec).trans (t.finish_extends e)
      exact State.orWait_quiet ⟨hext.trace, hext.rand⟩
    · obtain ⟨cmds, rfl⟩ : ∃ ws, s' = { s with cmds := ws } := ⟨_, (State.fetch_take he).1⟩
      rw [(State.reject_eq _ e).1]
      exact ⟨fun _ => rfl, fun _ => rfl⟩
  · obtain ⟨t, hexec, hemits⟩ := exec_frame_trace_ne (s := { s with cmds := ws }) hrenders
    exact step_command_waits htakes rfl hexec (.inl ⟨hdriver, hemits⟩)
  · obtain ⟨t, hexec, hdraws⟩ := exec_frame_rand_ne (s := { s with cmds := ws }) hnorm hlegal hk
    exact step_command_waits htakes rfl hexec (.inr ⟨hsource, hdraws⟩)

end Sys2Proof.Machine
end

section
/-! FRAME's loop against the kernel rows: one dispatch is one row, and four stepped kernels are one FRAME (46_frame_mux_writer.md
R290, R292; log 8). -/

namespace Sys2Proof.Machine

/-- Settles O30: both run the kernel that `kernelOfTag` selects, for section `k`. -/
theorem dispatchRunsTheRowOfTheTag : Obligations.DispatchRunsTheRowOfTheTag := by
  unfold Obligations.DispatchRunsTheRowOfTheTag
  intro s k i hd
  obtain ⟨f, hf⟩ := kernelOfTag_of_decodeTag hd
  rw [State.dispatch_eq hf]
  exact exec_of_tag hd hf { s with frameSec := k }

/-! ### The registers that no kernel writes -/

/-- No kernel writes the mode, the bound colours or the inert `ds_rows` (10_state.md R33 to R35, R44). -/
theorem kernelRow_shared {t : BitVec 4} {f : Config → Fin 4 → KernelView → KernelView} (h : KernelRow t f) (c : Config)
    (k : Fin 4) (v : KernelView) :
    (f c k v).sec.mode = v.sec.mode ∧ (f c k v).sec.solid = v.sec.solid ∧ (f c k v).sec.pattern = v.sec.pattern ∧
      (f c k v).sec.dsRows = v.sec.dsRows := by
  cases h with
  | off | solidColor | solidPattern | rainbow | singleColorChase | chase | randomOne | raindrops => exact ⟨rfl, rfl, rfl, rfl⟩
  | randomAll => rw [kernelRandomAll_sec]; exact ⟨rfl, rfl, rfl, rfl⟩
  | twinkle => rw [kernelTwinkle_sec]; exact ⟨rfl, rfl, rfl, rfl⟩
  | fireflies => rw [kernelFireflies_sec]; exact ⟨rfl, rfl, rfl, rfl⟩
  | dropAndStack => rw [kernelDropAndStack_sec]; exact ⟨rfl, rfl, rfl, rfl⟩

theorem State.runKernel_shared {t : BitVec 4} {f : Config → Fin 4 → KernelView → KernelView} (h : kernelOfTag t = some f)
    (s : State) (k j : Fin 4) :
    ((s.runKernel f k).sec j).mode = (s.sec j).mode ∧ ((s.runKernel f k).sec j).solid = (s.sec j).solid ∧
      ((s.runKernel f k).sec j).pattern = (s.sec j).pattern ∧ ((s.runKernel f k).sec j).dsRows = (s.sec j).dsRows := by
  rw [State.runKernel_sec]
  split
  next hj => exact hj ▸ kernelRow_shared (kernelRow_of_kernelOfTag h) s.cfg k (s.view k)
  · exact ⟨rfl, rfl, rfl, rfl⟩

theorem State.dispatch_mode (s : State) (k j : Fin 4) : ((s.dispatch k).sec j).mode = (s.sec j).mode := by
  unfold State.dispatch
  split
  next hf => exact (State.runKernel_shared hf s k j).1
  · rfl

/-! ### The stepped loop -/

/-- A running block in Normal state with legal tags that its environment serves: its loop neither faults nor waits. -/
structure State.Runs (s : State) : Prop where
  rst : s.rst = none
  valid : s.faultValid = false
  served : s.Served
  legal : ∀ k, (s.sec k).mode < 12

theorem State.Runs.dispatch {s : State} (h : s.Runs) (k : Fin 4) : (s.dispatch k).Runs := by
  have hframe := s.dispatch_frame k
  obtain ⟨m, hm⟩ := (s.dispatch_extends k).rand
  refine ⟨(congrArg (·.rst) hframe).trans h.rst, (congrArg State.faultValid hframe).trans h.valid, ⟨?_, ?_⟩, fun j => ?_⟩
  · exact (congrArg (·.driverReady) hframe).trans h.served.1
  · rw [hm]
    exact h.served.2
  · rw [State.dispatch_mode]
    exact h.legal j

/-- `s` inside the section loop of a FRAME, with section `k` in turn. -/
def State.atSection (s : State) (k : Fin 4) : State := { s with inFrame := true, frameSec := k }

/-- One step of the loop dispatches the section in turn and goes on. -/
theorem step_atSection {s : State} (h : s.Runs) (k : Fin 4) :
    step (s.atSection k) = .next ((s.dispatch k).atSection k).advanceFrame := by
  obtain ⟨hrst, hvalid, hserved, hlegal⟩ := h
  obtain ⟨f, hf⟩ := kernelOfTag_legal (hlegal k)
  obtain ⟨i, hd⟩ : ∃ i, decodeTag (s.sec k).mode = .instr i := by
    cases hd : decodeTag (s.sec k).mode with
    | instr i => exact ⟨i, rfl⟩
    | illegalCommand => exact absurd hd (decodeTag_ne_illegal _)
    | reservedTag => exact absurd (hlegal k) ((decodeTag_reserved_iff _).mp hd)
  have hexec := exec_of_tag hd hf (s.atSection k)
  have hdispatch : (s.atSection k).runKernel f k = (s.dispatch k).atSection k := by
    rw [State.dispatch_eq hf]
    rfl
  rw [step_kernel (s := s.atSection k) hrst hvalid rfl hd hexec, State.orWait_served (s := s.atSection k) hserved]
  exact congrArg (fun u : State => Host.Outcome.next u.advanceFrame) hdispatch

theorem step_atSection_next {s : State} (h : s.Runs) {k : Fin 4} (hk : k ≠ 3) :
    step (s.atSection k) = .next ((s.dispatch k).atSection (k + 1)) :=
  (step_atSection h k).trans (congrArg _ (if_neg hk))

/-- The loop ends in the state of a block that renders outside it. -/
theorem State.advanceFrame_atSection_last {s : State} (hframe : s.inFrame = false) (hsec : s.frameSec = 0) :
    (s.atSection 3).advanceFrame = s.render := by
  cases s
  subst hframe hsec
  rfl

theorem run_succ {s t : State} (h : step s = .next t) (n : Nat) : Sys2Proof.core.run (n + 1) s = Sys2Proof.core.run n t := by
  have hcore : Sys2Proof.core.step s = .next t := h
  simp only [Host.Core.run, hcore]

/-- Settles O31: three steps dispatch sections 0 to 2, the fourth dispatches section 3, renders and leaves the loop. -/
theorem frameCommandEqualsTheSteppedLoop : Obligations.FrameCommandEqualsTheSteppedLoop := by
  unfold Obligations.FrameCommandEqualsTheSteppedLoop
  intro s hrst hvalid hframe hsec hserved hnorm hlegal
  have h0 : s.Runs := ⟨hrst, hvalid, hserved, hlegal⟩
  have h1 := h0.dispatch 0
  have h2 := h1.dispatch 1
  have h3 := h2.dispatch 2
  have hstart : ({ s with inFrame := true } : State) = s.atSection 0 := by rw [State.atSection, ← hsec]
  have hend : (s.runSections.atSection 3).advanceFrame = s.runSections.render :=
    State.advanceFrame_atSection_last ((congrArg (·.inFrame) s.runSections_frame).trans hframe)
      ((congrArg (·.frameSec) s.runSections_frame).trans hsec)
  have hloop : Sys2Proof.core.run 4 (s.atSection 0) = .next s.runSections.render :=
    calc Sys2Proof.core.run 4 (s.atSection 0)
      _ = Sys2Proof.core.run 3 ((s.dispatch 0).atSection 1) := run_succ (step_atSection_next h0 (by decide)) 3
      _ = Sys2Proof.core.run 2 (((s.dispatch 0).dispatch 1).atSection 2) := run_succ (step_atSection_next h1 (by decide)) 2
      _ = Sys2Proof.core.run 1 ((((s.dispatch 0).dispatch 1).dispatch 2).atSection 3) :=
        run_succ (step_atSection_next h2 (by decide)) 1
      _ = .next (s.runSections.atSection 3).advanceFrame := run_succ (step_atSection h3 3) 0
      _ = .next s.runSections.render := congrArg _ hend
  rw [hstart]
  exact hloop.trans (exec_frame_normal hnorm hlegal).symm

end Sys2Proof.Machine
end

section
/-! Which instruction writes which register (10_state.md R33 to R50), and what no instruction reads (R47, 20_memory.md R84). -/

namespace Sys2Proof.Machine

/-! ### One writer for each shared register -/

/-- What no instruction writes: the configuration, the inputs, and the model's place in a FRAME. -/
theorem exec_unchanged {i : Instr} {s t : State} (h : exec i s = .next t) :
    t = { s with
      secs := t.secs, fb := t.fb, sel := t.sel, rand := t.rand, fault := t.fault, faultInfo := t.faultInfo, trace := t.trace } := by
  by_cases hi : i = .frame
  · subst hi
    cases exec_effect h with
    | overlay _ | badTag _ _ => rfl
    | sections _ _ => rw [State.render_eq_of_frame s.runSections_frame]
    | kernel hd _ => exact absurd (decodeTag_mem_modeList hd) (by decide)
  · rw [exec_ne_frame_unchanged hi h]

/-- Everything that can happen to the registers of one section, and by which instruction. -/
theorem exec_sec {i : Instr} {s t : State} (h : exec i s = .next t) (k : Fin 4) :
    t.sec k = s.sec k ∨
    (i = .button2 ∧ t.sec k = cycleBound s.cfg (s.sec k)) ∨
    (i = .nextMode ∧ t.sec k = { s.sec k with mode := nextMode (s.sec k).mode }) ∨
    ((i = .frame ∨ i ∈ modeList) ∧ ∃ tag f v, KernelRow tag f ∧ v.sec = s.sec k ∧ t.sec k = (f s.cfg k v).sec) := by
  cases exec_effect h with
  | nop | cursor | toggleSelect | selectSection _ | keepMode _ | overlay _ | badTag _ _ => exact .inl rfl
  | cycleBound _ =>
    rw [State.setSec_sec]
    split
    next hk => exact .inr (.inl ⟨rfl, by rw [hk]⟩)
    · exact .inl rfl
  | advanceMode _ =>
    by_cases hk : k = s.sel.sect
    · exact .inr (.inr (.inl ⟨rfl, by rw [State.withNextMode_sec, if_pos hk, hk]⟩))
    · exact .inl ((s.withNextMode_sec k).trans (if_neg hk))
  | sections _ hlegal =>
    obtain ⟨f, v, hf, hv, hsec⟩ := State.runSections_sec (hlegal k)
    exact .inr (.inr (.inr ⟨.inl rfl, _, f, v, hf, hv, (s.runSections.render_sec k).trans hsec⟩))
  | kernel hd hf =>
    have hi := decodeTag_mem_modeList hd
    rw [State.runKernel_sec]
    split
    next hk => exact .inr (.inr (.inr ⟨.inr hi, _, _, s.view k, kernelRow_of_kernelOfTag hf, rfl, by rw [hk]⟩))
    · exact .inl rfl

theorem cycleBound_frame (c : Config) (x : SectionRegs) :
    cycleBound c x = { x with solid := (cycleBound c x).solid, pattern := (cycleBound c x).pattern } := by
  unfold cycleBound
  split
  · rfl
  · split <;> rfl

/-- What each instruction keeps of a section's shared registers. -/
theorem exec_sec_shared {i : Instr} {s t : State} (h : exec i s = .next t) (k : Fin 4) :
    (i ≠ .nextMode → (t.sec k).mode = (s.sec k).mode) ∧
    (i ≠ .button2 → (t.sec k).solid = (s.sec k).solid ∧ (t.sec k).pattern = (s.sec k).pattern) ∧
    (t.sec k).dsRows = (s.sec k).dsRows := by
  obtain hsec | ⟨rfl, hsec⟩ | ⟨rfl, hsec⟩ | ⟨-, tag, f, v, hf, hv, hsec⟩ := exec_sec h k
  · rw [hsec]
    exact ⟨fun _ => rfl, fun _ => ⟨rfl, rfl⟩, rfl⟩
  · rw [hsec, cycleBound_frame]
    exact ⟨fun _ => rfl, fun hne => absurd rfl hne, rfl⟩
  · rw [hsec]
    exact ⟨fun hne => absurd rfl hne, fun _ => ⟨rfl, rfl⟩, rfl⟩
  · obtain ⟨hmode, hsolid, hpattern, hrows⟩ := kernelRow_shared hf s.cfg k v
    rw [hsec, ← hv]
    exact ⟨fun _ => hmode, fun _ => ⟨hsolid, hpattern⟩, hrows⟩

/-- What each instruction keeps of the selection. -/
theorem exec_sel {i : Instr} {s t : State} (h : exec i s = .next t) :
    (i ≠ .button2 → t.sel.sect = s.sel.sect) ∧ (i ≠ .toggleSelect → t.sel.selecting = s.sel.selecting) ∧
    t.sel.pixel = s.sel.pixel := by
  have same {u : State} (hu : u.sel = s.sel) : (i ≠ .button2 → u.sel.sect = s.sel.sect) ∧
      (i ≠ .toggleSelect → u.sel.selecting = s.sel.selecting) ∧ u.sel.pixel = s.sel.pixel := by
    rw [hu]
    exact ⟨fun _ => rfl, fun _ => rfl, rfl⟩
  cases exec_effect h with
  | nop | cursor | cycleBound _ | keepMode _ | advanceMode _ | overlay _ | badTag _ _ | kernel _ _ => exact same rfl
  | toggleSelect => exact ⟨fun _ => rfl, fun hne => absurd rfl hne, rfl⟩
  | selectSection _ => exact ⟨fun hne => absurd rfl hne, fun _ => rfl, rfl⟩
  | sections _ _ => exact same (s.runSections.render_sel.trans (congrArg (·.sel) s.runSections_frame))

/-- Settles O17, register group by register group. -/
theorem sharedRegistersHaveTheirOneWriter : Obligations.SharedRegistersHaveTheirOneWriter := by
  unfold Obligations.SharedRegistersHaveTheirOneWriter
  intro i s t h
  have hsame := exec_unchanged h
  have hshared := exec_sec_shared h
  obtain ⟨hsect, hselecting, hpixel⟩ := exec_sel h
  obtain ⟨m, hm⟩ := (exec_extends h).rand
  refine ⟨⟨congrArg (·.cfg) hsame, congrArg (·.rst) hsame, congrArg (·.cmds) hsame, congrArg (·.driverReady) hsame, ?_,
    congrArg (·.inFrame) hsame, congrArg (·.frameSec) hsame, congrArg (·.rejections) hsame⟩,
    fun hi k => (hshared k).1 hi, fun hi => ⟨hsect hi, fun k => (hshared k).2.1 hi⟩, hselecting, hpixel,
    fun k => (hshared k).2.2, fun hi => ?_⟩
  · rw [hm, RandomPort.after_answering]
  · have hframe := exec_ne_frame_unchanged hi h
    exact ⟨congrArg (·.fault) hframe, congrArg (·.faultInfo) hframe⟩

/-! ### The registers of the other modes -/

/-- The registers of every mode but the one with tag `t` are the same in `y` as in `x` (10_state.md R50). -/
abbrev KeepsOtherModes (t : BitVec 4) (x y : SectionRegs) : Prop :=
  (t ≠ 3 → y.rbStep = x.rbStep) ∧
  (t ≠ 4 → y.sccIdx = x.sccIdx ∧ y.sccPal = x.sccPal) ∧
  (t ≠ 5 → y.raCnt = x.raCnt) ∧
  (t ≠ 6 → y.roLast = x.roLast) ∧
  (t ≠ 7 → y.rdCol = x.rdCol) ∧
  (t ≠ 8 → y.rfTgt = x.rfTgt ∧ y.rfFs = x.rfFs) ∧
  (t ≠ 9 → y.ffCol = x.ffCol ∧ y.ffPhase = x.ffPhase ∧ y.ffBri = x.ffBri ∧ y.ffActive = x.ffActive) ∧
  (t ≠ 10 → y.dsCi = x.dsCi ∧ y.dsPos = x.dsPos ∧ y.dsRun = x.dsRun) ∧
  (t ≠ 11 → y.chIdx = x.chIdx)

theorem KeepsOtherModes.refl (t : BitVec 4) (x : SectionRegs) : KeepsOtherModes t x x := by
  simp [KeepsOtherModes]

theorem kernelRow_keepsOtherModes {t : BitVec 4} {f : Config → Fin 4 → KernelView → KernelView} (h : KernelRow t f)
    (c : Config) (k : Fin 4) (v : KernelView) : KeepsOtherModes t v.sec (f c k v).sec := by
  cases h with
  | off | solidColor | solidPattern => exact .refl _ _
  | rainbow => simp [KeepsOtherModes]
  | singleColorChase => simp [KeepsOtherModes]
  | randomAll => simp [KeepsOtherModes]
  | randomOne => simp [KeepsOtherModes, kernelRandomOne_sec]
  | raindrops => rw [kernelRaindrops_sec]; simp [KeepsOtherModes]
  | twinkle => rw [kernelTwinkle_sec]; simp [KeepsOtherModes]
  | fireflies => rw [kernelFireflies_sec]; simp [KeepsOtherModes]
  | dropAndStack => rw [kernelDropAndStack_sec]; simp [KeepsOtherModes]
  | chase => simp [KeepsOtherModes]

theorem control_not_kernel : ∀ i ∈ [Instr.nop, .toggleSelect, .button2, .nextMode, .cursor], ¬ (i = .frame ∨ i ∈ modeList) := by
  decide

/-- Settles O18: a FRAME gives a section to the kernel of its mode alone, and no control command runs a kernel. -/
theorem perModeRegistersAreKept : Obligations.PerModeRegistersAreKept := by
  unfold Obligations.PerModeRegistersAreKept
  refine ⟨fun s t h k => ?_, fun i s t hi h k => ?_⟩
  · change KeepsOtherModes (s.sec k).mode (s.sec k) (t.sec k)
    cases exec_effect h with
    | overlay _ | badTag _ _ => exact .refl _ _
    | sections _ hlegal =>
      obtain ⟨f, v, hf, hv, hsec⟩ := State.runSections_sec (hlegal k)
      rw [State.render_sec, hsec]
      exact hv ▸ kernelRow_keepsOtherModes hf s.cfg k v
    | kernel hd _ => exact absurd (decodeTag_mem_modeList hd) (by decide)
  · obtain hsec | ⟨rfl, hsec⟩ | ⟨rfl, hsec⟩ | ⟨hkernel, -⟩ := exec_sec h k
    · rw [hsec]
    · rw [hsec, cycleBound_frame]
    · rw [hsec]
    · exact absurd hkernel (control_not_kernel i hi)

/-! ### The trace and the cursor -/

/-- `s` with another cursor and with earlier events before its trace. -/
def State.carry (p : Nat) (es : List Event) (s : State) : State :=
  { s with sel := { s.sel with pixel := p }, trace := es ++ s.trace }

section
variable (p : Nat) (es : List Event) (s : State)

theorem State.carry_render : (s.carry p es).render = s.render.carry p es := by
  simp [State.render, State.emit, State.carry]

theorem State.carry_dispatch (k : Fin 4) : (s.carry p es).dispatch k = (s.dispatch k).carry p es := by
  have hsec : (s.carry p es).sec k = s.sec k := rfl
  unfold State.dispatch
  rw [hsec]
  split <;> rfl

theorem State.carry_runSections : (s.carry p es).runSections = s.runSections.carry p es := by
  simp only [State.runSections, State.carry_dispatch]

end

/-- Settles O19: carried along, neither is looked at by a branch, a kernel, the overlay, the mode check or the pixel writer. -/
theorem traceAndCursorAreNeverRead : Obligations.TraceAndCursorAreNeverRead := by
  unfold Obligations.TraceAndCursorAreNeverRead
  intro i s t p es h
  change exec i (s.carry p es) = .next (t.carry p es)
  have hbad : (s.carry p es).badSection = s.badSection := rfl
  cases exec_effect h with
  | nop | cursor | toggleSelect => rfl
  | selectSection hsel => exact exec_button2_selecting (s := s.carry p es) hsel
  | cycleBound hnorm => exact exec_button2_normal (s := s.carry p es) hnorm
  | keepMode hsel => exact exec_nextMode_selecting (s := s.carry p es) hsel
  | advanceMode hnorm => exact exec_nextMode_normal (s := s.carry p es) hnorm
  | overlay hsel => exact (exec_frame_selecting (s := s.carry p es) hsel).trans (congrArg _ (s.overlay.carry_render p es))
  | badTag hnorm hk => exact exec_frame_badTag (s := s.carry p es) hnorm (hbad.trans hk)
  | sections hnorm hlegal =>
    rw [exec_frame_normal (s := s.carry p es) hnorm hlegal, State.carry_runSections, State.carry_render]
  | kernel hd hf => exact exec_of_tag hd hf (s.carry p es)

end Sys2Proof.Machine
end

section
/-! NEXT_MODE, once and twelve times (45_control_commands.md R276, 30_encoding.md R107). -/

namespace Sys2Proof.Machine

theorem State.withNextMode_fb {s : State} (h : s.Canonical) : s.withNextMode.fb = [] := fbClear_eq_nil h

/-- Settles O24: one section gets the next mode, and the clear empties the canonical framebuffer. -/
theorem nextModeAdvancesAndClears : Obligations.NextModeAdvancesAndClears := by
  unfold Obligations.NextModeAdvancesAndClears
  refine ⟨fun s hsel => exec_nextMode_selecting hsel, fun s hfb hnorm => ⟨s.withNextMode, exec_nextMode_normal hnorm, ?_⟩⟩
  have hsec := (s.withNextMode_sec s.sel.sect).trans (if_pos rfl)
  refine ⟨?_, ?_, fun k hk => (s.withNextMode_sec k).trans (if_neg hk), fun i => ?_, rfl⟩
  · rw [hsec]
    exact nextMode_toNat _
  · rw [hsec]
  · rw [State.withNextMode_fb hfb, Memory.read_nil]

/-- `s` with mode `m` in the selected section and nothing listed in the framebuffer. -/
def State.withMode (s : State) (m : BitVec 4) : State :=
  { s.setSec s.sel.sect { s.sec s.sel.sect with mode := m } with fb := [] }

theorem State.withNextMode_eq {s : State} (h : s.Canonical) : s.withNextMode = s.withMode (nextMode (s.sec s.sel.sect).mode) := by
  rw [State.withNextMode, fbClear_eq_nil h, State.withMode]

theorem State.withMode_withNextMode (s : State) (m : BitVec 4) : (s.withMode m).withNextMode = s.withMode (nextMode m) := by
  have hclear : fbClear s.cfg.pixels [] = [] := fbClear_eq_nil (Memory.wf_nil _)
  simp [State.withNextMode, State.withMode, State.setSec, State.sec, hclear]

theorem State.withMode_self (s : State) : s.withMode (s.sec s.sel.sect).mode = { s with fb := [] } :=
  congrArg (fun secs => ({ s with secs := secs, fb := [] } : State)) (s.secs_set_self s.sel.sect)

/-- After one or more NEXT_MODE commands the mode has walked on and the framebuffer is empty. -/
theorem State.withNextMode_iterate {s : State} (h : s.Canonical) (n : Nat) :
    State.withNextMode^[n + 1] s = s.withMode (nextMode^[n + 1] (s.sec s.sel.sect).mode) := by
  induction n with
  | zero => exact State.withNextMode_eq h
  | succ n ih => rw [Function.iterate_succ_apply', ih, State.withMode_withNextMode, ← Function.iterate_succ_apply' nextMode]

/-- Settles O25: the states are the iterates, and twelve steps of `nextMode` return a legal tag. -/
theorem twelveNextModesReturn : Obligations.TwelveNextModesReturn := by
  unfold Obligations.TwelveNextModesReturn
  intro s hfb hnorm hlegal
  have hselecting (n : Nat) : (State.withNextMode^[n] s).sel.selecting = false := by
    cases n with
    | zero => exact hnorm
    | succ n =>
      rw [State.withNextMode_iterate hfb]
      exact hnorm
  refine ⟨fun n => State.withNextMode^[n] s, rfl, fun n _ => ?_, ?_⟩
  · dsimp only
    rw [Function.iterate_succ_apply']
    exact exec_nextMode_normal (hselecting n)
  · exact (State.withNextMode_iterate hfb 11).trans
      (by rw [nextMode_iterate_twelve (BitVec.lt_def.mp hlegal), State.withMode_self])

end Sys2Proof.Machine
end

section
/-! Where a kernel writes: only in its section, but for Off (20_memory.md R79), and what an Off section erases in a FRAME
(70_reset_and_hazards.md R360). -/

namespace Sys2Proof.Machine

/-! ### Writes outside the section -/

/-- The two entries that a falling frame writes, with the drop's place in the section. -/
theorem read_dsPaint {c : Config} {v : KernelView} (h : Memory.wf c.pixels v.fb = true) (k : Fin 4)
    (hpos : v.sec.dsPos ≤ (c.sectionLen : Int) - 1) (i : Nat) :
    Memory.read (dsPaint c k v) i =
      if (i : Int) = (c.sectionStart k : Int) + v.sec.dsPos then c.dsPal v.sec.dsCi
      else if (i : Int) = (c.sectionStart k : Int) + v.sec.dsPos + 1 ∧ v.sec.dsPos ≠ (c.sectionLen : Int) - 1 then
        c.dsPal (v.sec.dsCi + 1)
      else Memory.read v.fb i := by
  have hend := sectionEnd_le c k
  have hdrop : (c.sectionStart k : Int) + v.sec.dsPos < c.pixels := by omega
  unfold dsPaint
  dsimp only
  split
  next htop =>
    have herase : (c.sectionStart k : Int) + v.sec.dsPos + 1 < c.pixels := by omega
    rw [read_fbWriteInt (fbWriteInt_wf h _ _), read_fbWriteInt h]
    simp only [hdrop, herase, htop, and_true, ne_eq, not_false_eq_true]
  next htop => simp only [read_fbWriteInt h, hdrop, htop, and_true, and_false, if_false]

theorem read_rfSeedIfBlack_outside {c : Config} {v : KernelView} (h : Memory.wf c.pixels v.fb = true) {k : Fin 4} {j : Nat}
    (hout : ¬ InSection c k j) : Memory.read (rfSeedIfBlack c k v).fb j = Memory.read v.fb j := by
  unfold rfSeedIfBlack
  split
  · exact (read_fillSection h k _ j).trans (if_neg hout)
  · rfl

theorem read_kernelTwinkle_outside {c : Config} {v : KernelView} (h : Memory.wf c.pixels v.fb = true) {k : Fin 4} {j : Nat}
    (hout : ¬ InSection c k j) : Memory.read (kernelTwinkle c k v).fb j = Memory.read v.fb j :=
  (read_fillSection (rfSeedIfBlack_wf h k) k _ j).trans ((if_neg hout).trans (read_rfSeedIfBlack_outside h hout))

theorem kernelRow_read_outside {t : BitVec 4} {f : Config → Fin 4 → KernelView → KernelView} (hf : KernelRow t f) (hoff : t ≠ 0)
    {c : Config} (hlen : 0 < c.sectionLen) {k : Fin 4} {v : KernelView} (hfb : Memory.wf c.pixels v.fb = true)
    (hinv : v.sec.Inv c) {j : Nat} (hout : ¬ InSection c k j) : Memory.read (f c k v).fb j = Memory.read v.fb j := by
  have fill (g : Nat → Color) : Memory.read (fillSection c k v.fb g) j = Memory.read v.fb j :=
    (read_fillSection hfb k g j).trans (if_neg hout)
  have hne {o : Nat} (ho : o < c.sectionLen) : j ≠ c.sectionStart k + o := fun h => hout (h ▸ inSection_add k ho)
  obtain ⟨-, -, hscc, -, -, -, -, -, -, hstack⟩ := hinv
  cases hf with
  | off => exact absurd rfl hoff
  | solidColor | solidPattern | rainbow | raindrops | fireflies => exact fill _
  | singleColorChase => rw [read_kernelSingleColorChase hfb k hscc, if_neg (hne hscc), if_neg hout]
  | randomAll =>
    unfold kernelRandomAll
    split
    · exact fill _
    · rfl
  | randomOne =>
    have hdraw := RandomPort.draw_lt hlen v.rand
    exact (read_fbWrite_inSection hfb k hdraw _ j).trans (if_neg (hne hdraw))
  | twinkle => exact read_kernelTwinkle_outside hfb hout
  | dropAndStack =>
    unfold kernelDropAndStack
    split
    · exact fill _
    next hpos =>
      obtain ⟨-, hrun, hend | ⟨-, hlow, hhigh⟩⟩ := hstack
      · exact absurd hend hpos
      have hj : ¬ (c.sectionStart k ≤ j ∧ j < c.sectionStart k + c.sectionLen) := hout
      rw [read_dsPaint hfb k hhigh, if_neg (by omega), if_neg (by omega)]
  | chase =>
    rw [kernelChase, read_chasePaint_of_ne (fillSection_wf hfb k _) hlen k (Nat.zero_le 8) fun o _ _ => hne (Nat.mod_lt _ hlen)]
    exact fill _

/-- Settles O33: a mode instruction runs the kernel of a row that is not Off's. -/
theorem kernelsWriteOnlyTheirSection : Obligations.KernelsWriteOnlyTheirSection := by
  unfold Obligations.KernelsWriteOnlyTheirSection
  intro i s t hgood hi hoff hexec j hout
  obtain ⟨tag, f, -, hd, hf, hk⟩ := exec_kernel hi s
  obtain rfl := exec_unique hexec hk
  have hne : tag ≠ 0 := by
    rintro rfl
    have hrow : Decoded.instr .modeOff = .instr i := hd
    exact hoff (Decoded.instr.inj hrow).symm
  exact kernelRow_read_outside (kernelRow_of_kernelOfTag hf) hne hgood.sectionLen_pos hgood.canonical (hgood.inv s.frameSec) hout

/-! ### Off in a FRAME -/

/-- Every entry below section `k` is black. -/
abbrev State.BlackBelow (s : State) (k : Fin 4) : Prop := ∀ i < s.cfg.sectionStart k, Memory.read s.fb i = Color.black

/-- The dispatch of a section in mode Off leaves nothing lit, in no section. -/
theorem State.read_dispatch_off {s : State} (h : s.Canonical) {k : Fin 4} (hoff : (s.sec k).mode = 0) (i : Nat) :
    Memory.read (s.dispatch k).fb i = Color.black := by
  rw [State.dispatch_eq (f := kernelOff) (by rw [hoff]; rfl)]
  exact read_kernelOff (v := s.view k) h k i

/-- A dispatch above `k` keeps the entries below section `k` black: it writes in its own section, or it is Off. -/
theorem State.dispatch_keeps_blackBelow {s : State} (h : s.Good) {j k : Fin 4} (hkj : k < j) (hblack : s.BlackBelow k) :
    (s.dispatch j).BlackBelow k := by
  intro i hi
  rw [State.dispatch_cfg] at hi
  obtain ⟨f, hf⟩ := kernelOfTag_legal (h.mode_lt j)
  by_cases hoff : (s.sec j).mode = 0
  · exact State.read_dispatch_off h.canonical hoff i
  · have hstart : s.cfg.sectionStart k ≤ s.cfg.sectionStart j := Nat.mul_le_mul_right _ hkj.le
    have hout : ¬ InSection s.cfg j i := fun hin => absurd (hi.trans_le hstart) (not_lt.mpr hin.1)
    rw [State.dispatch_eq hf]
    have hkeep := kernelRow_read_outside (kernelRow_of_kernelOfTag hf) hoff h.sectionLen_pos (v := s.view j) h.canonical
      (h.inv j) hout
    exact hkeep.trans (hblack i hi)

theorem State.runSections_cfg (s : State) : s.runSections.cfg = s.cfg := congrArg (·.cfg) s.runSections_frame

/-- Settles O32: the dispatch of the Off section clears everything, and the later ones write above. -/
theorem offErasesTheLowerSections : Obligations.OffErasesTheLowerSections := by
  unfold Obligations.OffErasesTheLowerSections
  intro s k hgood hnorm hoff
  obtain ⟨u, hbefore, hafter⟩ := s.runSections_split k
  obtain ⟨hu, hsec⟩ := hbefore.induct (P := fun u => u.Good ∧ u.sec k = s.sec k)
    (fun u j hj hu => ⟨hu.1.dispatch j, (u.dispatch_sec_ne hj.ne').trans hu.2⟩) ⟨hgood, rfl⟩
  have hclear : (u.dispatch k).BlackBelow k := fun i _ =>
    State.read_dispatch_off hu.canonical ((congrArg (·.mode) hsec).trans hoff) i
  obtain ⟨-, hblack⟩ := hafter.induct (P := fun t => t.Good ∧ t.BlackBelow k)
    (fun t j hj ht => ⟨ht.1.dispatch j, State.dispatch_keeps_blackBelow ht.1 hj ht.2⟩) ⟨hu.dispatch k, hclear⟩
  refine ⟨s.runSections.render, exec_frame_normal hnorm hgood.mode_lt, ?_⟩
  rw [State.render_fb]
  rwa [State.BlackBelow, State.runSections_cfg] at hblack

end Sys2Proof.Machine
end

section
/-! Fireflies: the life of one firefly (43_random_kernels.md R214) and the spawn (R215). -/

namespace Sys2Proof.Machine

/-- Settles O48, by running the fifteen advances. -/
theorem fireflyLivesFifteenFrames : Obligations.FireflyLivesFifteenFrames := by
  unfold Obligations.FireflyLivesFifteenFrames
  decide

/-- Every pixel is either active or off. -/
theorem ffOffs_length {len : Nat} {x : SectionRegs} (h : x.FirefliesInv len) :
    (ffOffs len x).length = len - x.ffActive.length := by
  obtain ⟨-, -, -, hactive, -, -⟩ := h
  have hsplit := List.length_eq_length_filter_add (l := List.range len) fun o => decide (x.ffPhase.getD o .off = .off)
  simp only [List.length_range, ← decide_not, ← ne_eq, ← hactive] at hsplit
  exact Nat.eq_sub_of_add_eq hsplit.symm

section
variable {c : Config} {x : SectionRegs} {p : RandomPort}

theorem ffSpawn_full (h : 3 ≤ x.ffActive.length) : ffSpawn c x p = (x, p) := if_neg (not_lt.mpr h)

/-- With room for another firefly one draw is taken; it starts none if it is not 1, or if no pixel is off. -/
theorem ffSpawn_none (h : x.ffActive.length < 3) (hno : p.raw 0 % 2 ≠ 1 ∨ ffOffs c.sectionLen x = []) :
    ffSpawn c x p = (x, p.after 1) := by
  have hgo : ¬ (p.raw 0 % 2 = 1 ∧ ffOffs c.sectionLen x ≠ []) := by tauto
  simp only [ffSpawn, if_pos h, RandomPort.draw_eq, if_neg hgo]

/-- Otherwise the next draw picks the pixel that a random colour lights. -/
theorem ffSpawn_some (h : x.ffActive.length < 3) (hgo : p.raw 0 % 2 = 1) (hoffs : ffOffs c.sectionLen x ≠ []) :
    ffSpawn c x p =
      (ffLight x ((ffOffs c.sectionLen x).getD (p.raw 1 % (ffOffs c.sectionLen x).length) 0) (drawnColor c p 2),
        p.after (2 + c.colorDraws)) := by
  simp [ffSpawn, h, RandomPort.draw_eq, randomColor_eq, hgo, hoffs]

end

/-- Settles O49: the pixels that are off number `L` less the active ones, and the drawn one of them is lit. -/
theorem firefliesSpawnAtMostOne : Obligations.FirefliesSpawnAtMostOne := by
  unfold Obligations.FirefliesSpawnAtMostOne
  intro c x p hinv
  have hlength := ffOffs_length hinv
  refine ⟨ffSpawn_full, fun hfew hno => ?_, fun hfew hgo hroom => ?_⟩
  · refine ffSpawn_none hfew (hno.imp_right fun hall => ?_)
    rw [← List.length_eq_zero_iff, hlength, hall, Nat.sub_self]
  · have hpos : 0 < (ffOffs c.sectionLen x).length := hlength ▸ Nat.sub_pos_of_lt hroom
    have hj : p.raw 1 % (ffOffs c.sectionLen x).length < (ffOffs c.sectionLen x).length := Nat.mod_lt _ hpos
    have hget := List.getElem?_eq_getElem hj
    refine ⟨_, _, ffSpawn_some hfew hgo (List.ne_nil_of_length_pos hpos), ?_, ?_, rfl, fun o => mem_insertAscending⟩
    · rw [List.getD_eq_getElem _ _ hj]
      exact (mem_ffOffs.mp (List.getElem_mem hj)).1
    · rw [List.getD_eq_getElem _ _ hj, ← hlength]
      exact hget

end Sys2Proof.Machine
end

section
/-! Twinkle: the seed, the picks one by one, and a whole frame (43_random_kernels.md R220 to R224). -/

namespace Sys2Proof.Machine

/-! ### The seed -/

/-- The random colours of a seed, each from its own draws (43_random_kernels.md R221). -/
def seedColors (c : Config) (p : RandomPort) : List Color :=
  (List.range c.sectionLen).map fun i => drawnColor c p (i * c.colorDraws)

theorem drawColors_seedColors (c : Config) (p : RandomPort) :
    drawColors (randomColor c) c.sectionLen p = (seedColors c p, p.after (c.sectionLen * c.colorDraws)) := by
  rw [drawColors_eq (randomColor_eq c), seedColors]
  simp only [drawnColor_after, Nat.add_zero]

theorem rfSeedIfBlack_of_black {c : Config} {k : Fin 4} {v : KernelView}
    (h : ∀ o < c.sectionLen, readSection c k v.fb o = Color.black) :
    rfSeedIfBlack c k v =
      ⟨{ v.sec with rfTgt := seedColors c v.rand, rfFs := List.replicate c.sectionLen 0 },
        fillSection c k v.fb fun i => (seedColors c v.rand).getD i Color.black,
        v.rand.after (c.sectionLen * c.colorDraws)⟩ := by
  have hblack : sectionBlack c k v.fb = true := by simpa [sectionBlack] using h
  rw [rfSeedIfBlack, if_pos hblack, drawColors_seedColors]

/-- Settles O50: a lit section is left alone; a black one is filled with `seedColors`, which are its targets too. -/
theorem twinkleSeedsABlackSection : Obligations.TwinkleSeedsABlackSection := by
  unfold Obligations.TwinkleSeedsABlackSection
  refine fun c k v hfb => ⟨rfSeedIfBlack_of_lit, fun hblack => ?_⟩
  have hread (i : Nat) := read_fillSection hfb k (fun i => (seedColors c v.rand).getD i Color.black) i
  have hcolor {o : Nat} (ho : o < c.sectionLen) : (seedColors c v.rand).getD o Color.black = drawnColor c v.rand (o * c.colorDraws) :=
    getD_map_range _ _ ho
  rw [rfSeedIfBlack_of_black hblack]
  refine ⟨rfl, by simp [seedColors], fun o ho => ⟨hcolor ho, ?_⟩, fun i hi => (hread i).trans (if_neg hi), rfl⟩
  exact (hread _).trans (by rw [if_pos (inSection_add k ho), Nat.add_sub_cancel_left, hcolor ho])

/-! ### One pick -/

/-- The pixel that the next pick takes from the list `el` (43_random_kernels.md R222). -/
def firstPick (el : List Nat) (p : RandomPort) : Nat := el.getD (p.raw 0 % el.length) 0

/-- The list that pick leaves. -/
def restOfPick (el : List Nat) (p : RandomPort) : List Nat := el.eraseIdx (p.raw 0 % el.length)

/-- The registers after a pick of pixel `k`, whose own draws come next on `p`. -/
def pickInto (c : Config) (x : SectionRegs) (k : Nat) (p : RandomPort) : SectionRegs :=
  { x with rfTgt := x.rfTgt.set k (drawnColor c p 1), rfFs := x.rfFs.set k 20 }

theorem rfPickLoop_succ (c : Config) (m : Nat) (el : List Nat) (x : SectionRegs) (p : RandomPort) :
    rfPickLoop c (m + 1) el x p =
      rfPickLoop c m (restOfPick el p) (pickInto c x (firstPick el p) p) (p.after (1 + c.colorDraws)) := by
  simp [rfPickLoop, restOfPick, pickInto, firstPick, RandomPort.draw_eq, randomColor_eq]

section
variable {m : Nat} {el : List Nat} (hm : m + 1 ≤ el.length) (p : RandomPort)
include hm

theorem getElem?_firstPick : el[p.raw 0 % el.length]? = some (firstPick el p) := by
  have hj : p.raw 0 % el.length < el.length := Nat.mod_lt _ (Nat.zero_lt_of_lt hm)
  rw [firstPick, List.getD_eq_getElem _ _ hj, List.getElem?_eq_getElem hj]

theorem firstPick_mem : firstPick el p ∈ el := List.mem_of_getElem? (getElem?_firstPick hm p)

theorem le_length_restOfPick : m ≤ (restOfPick el p).length := by
  rw [restOfPick, List.length_eraseIdx_of_lt (Nat.mod_lt _ (Nat.zero_lt_of_lt hm))]
  exact Nat.le_sub_one_of_lt hm

/-- Of a list without repeats the picked pixel goes, and no other. -/
theorem restOfPick_eq_filter (hel : el.Nodup) : restOfPick el p = el.filter fun o => decide (o ≠ firstPick el p) := by
  have hj : p.raw 0 % el.length < el.length := Nat.mod_lt _ (Nat.zero_lt_of_lt hm)
  rw [restOfPick, ← hel.erase_getElem _ hj, hel.erase_eq_filter, firstPick, List.getD_eq_getElem _ _ hj]
  exact List.filter_congr fun o _ => Bool.eq_iff_iff.mpr (by simp)

theorem firstPick_notMem_restOfPick (hel : el.Nodup) : firstPick el p ∉ restOfPick el p := by
  simp [restOfPick_eq_filter hm p hel]

end

/-! ### All picks -/

/-- The pixels that `m` picks take from the list `el`, in the order of the picks. -/
def pickedPixels (c : Config) : Nat → List Nat → RandomPort → List Nat
  | 0, _, _ => []
  | m + 1, el, p => firstPick el p :: pickedPixels c m (restOfPick el p) (p.after (1 + c.colorDraws))

theorem length_pickedPixels (c : Config) (m : Nat) (el : List Nat) (p : RandomPort) : (pickedPixels c m el p).length = m := by
  induction m generalizing el p with
  | zero => rfl
  | succ m ih => rw [pickedPixels, List.length_cons, ih]

section
variable (c : Config) {m : Nat} {el : List Nat} {p : RandomPort} (hm : m ≤ el.length)
include hm

theorem pickedPixels_subset : pickedPixels c m el p ⊆ el := by
  induction m generalizing el p with
  | zero => exact List.nil_subset el
  | succ m ih =>
    have hrest := le_length_restOfPick hm p
    exact List.cons_subset.mpr ⟨firstPick_mem hm p, fun o ho => List.mem_of_mem_eraseIdx (ih hrest ho)⟩

theorem pickedPixels_nodup (hel : el.Nodup) : (pickedPixels c m el p).Nodup := by
  induction m generalizing el p with
  | zero => exact List.nodup_nil
  | succ m ih =>
    have hrest := le_length_restOfPick hm p
    refine List.nodup_cons.mpr ⟨fun hagain => ?_, ih hrest (hel.eraseIdx _)⟩
    exact firstPick_notMem_restOfPick hm p hel (pickedPixels_subset c hrest hagain)

/-- Pick `n` is what its own draw selects from the list without the pixels picked before it. -/
theorem pickedPixels_getElem? (hel : el.Nodup) {n k : Nat} (hn : (pickedPixels c m el p)[n]? = some k) :
    (el.filter fun o => decide (o ∉ (pickedPixels c m el p).take n))[
      p.raw (n * (1 + c.colorDraws)) % (el.filter fun o => decide (o ∉ (pickedPixels c m el p).take n)).length]? = some k := by
  induction m generalizing el p n with
  | zero => simp [pickedPixels] at hn
  | succ m ih =>
    cases n with
    | zero =>
      obtain rfl : firstPick el p = k := by simpa [pickedPixels] using hn
      simpa using getElem?_firstPick hm p
    | succ n =>
      have hlater := ih (le_length_restOfPick hm p) (hel.eraseIdx _) (n := n) (p := p.after (1 + c.colorDraws))
        (by simpa [pickedPixels] using hn)
      have hfilter : (restOfPick el p).filter
            (fun o => decide (o ∉ (pickedPixels c m (restOfPick el p) (p.after (1 + c.colorDraws))).take n)) =
          el.filter fun o => decide (o ∉ (pickedPixels c (m + 1) el p).take (n + 1)) := by
        rw [restOfPick_eq_filter hm p hel, List.filter_filter, ← restOfPick_eq_filter hm p hel]
        exact List.filter_congr fun o _ => by simp [pickedPixels, Bool.and_comm]
      rw [RandomPort.raw_after, hfilter, Nat.add_comm (1 + _), ← Nat.succ_mul] at hlater
      exact hlater

/-- Every picked pixel gets a counter of 20 and its own random colour as target. -/
theorem rfPickLoop_of_picked (hel : el.Nodup) {x : SectionRegs} (htgt : ∀ o ∈ el, o < x.rfTgt.length)
    (hfs : ∀ o ∈ el, o < x.rfFs.length) {n k : Nat} (hn : (pickedPixels c m el p)[n]? = some k) :
    (rfPickLoop c m el x p).1.rfFs.getD k 0 = 20 ∧
    (rfPickLoop c m el x p).1.rfTgt.getD k Color.black = drawnColor c p (n * (1 + c.colorDraws) + 1) := by
  induction m generalizing el x p n with
  | zero => simp [pickedPixels] at hn
  | succ m ih =>
    have hmem := firstPick_mem hm p
    have hrest := le_length_restOfPick hm p
    rw [rfPickLoop_succ]
    cases n with
    | zero =>
      obtain rfl : firstPick el p = k := by simpa [pickedPixels] using hn
      obtain ⟨hkeepFs, hkeepTgt⟩ := rfPickLoop_of_notMem c hrest (firstPick_notMem_restOfPick hm p hel)
        (pickInto c x (firstPick el p) p) (p.after (1 + c.colorDraws))
      rw [hkeepFs, hkeepTgt, pickInto, getD_set (hfs _ hmem), getD_set (htgt _ hmem), if_pos rfl, if_pos rfl, Nat.zero_mul]
      exact ⟨rfl, rfl⟩
    | succ n =>
      have hsub {o : Nat} (ho : o ∈ restOfPick el p) : o ∈ el := List.mem_of_mem_eraseIdx ho
      have hlater := ih hrest (hel.eraseIdx _) (x := pickInto c x (firstPick el p) p)
        (fun o ho => (htgt o (hsub ho)).trans_eq (List.length_set ..).symm)
        (fun o ho => (hfs o (hsub ho)).trans_eq (List.length_set ..).symm)
        (n := n) (p := p.after (1 + c.colorDraws)) (by simpa [pickedPixels] using hn)
      rw [drawnColor_after] at hlater
      rw [Nat.succ_mul, Nat.add_comm (n * _), Nat.add_assoc]
      exact hlater

end

/-- A pixel that is not picked keeps its counter and its target. -/
theorem rfPickLoop_of_notPicked (c : Config) {m : Nat} {el : List Nat} {p : RandomPort} {o : Nat}
    (ho : o ∉ pickedPixels c m el p) (x : SectionRegs) :
    (rfPickLoop c m el x p).1.rfFs.getD o 0 = x.rfFs.getD o 0 ∧
    (rfPickLoop c m el x p).1.rfTgt.getD o Color.black = x.rfTgt.getD o Color.black := by
  induction m generalizing el x p with
  | zero => exact ⟨rfl, rfl⟩
  | succ m ih =>
    obtain ⟨hne, hrest⟩ := List.ne_and_not_mem_of_not_mem_cons ho
    obtain ⟨hfs, htgt⟩ := ih hrest (pickInto c x (firstPick el p) p)
    rw [rfPickLoop_succ]
    exact ⟨hfs.trans (getD_set_of_ne hne.symm _ _ _), htgt.trans (getD_set_of_ne hne.symm _ _ _)⟩

theorem eligibleWithout_eq_filter (len : Nat) (x : SectionRegs) (picked : List Nat) :
    eligibleWithout len x picked = (rfEligible len x).filter fun o => decide (o ∉ picked) := by
  simp only [eligibleWithout, rfEligible, List.filter_filter, Bool.and_comm]

theorem rfPickCount_eq (c : Config) (n : Nat) (p : RandomPort) : rfPickCount c n p =
    (if c.rfPickExact then min 3 n else p.raw 0 % (min 3 n + 1), p.after (pickStart c 0)) := by
  unfold rfPickCount pickStart
  split <;> simp [RandomPort.draw_eq]

/-- `rfPick` as the loop over the eligible pixels, from the source that the draw of the number of picks leaves. -/
theorem rfPick_eq (c : Config) (v : KernelView) {m : Nat}
    (hm : (rfPickCount c (rfEligible c.sectionLen v.sec).length v.rand).1 = m) :
    (rfPick c v).sec = (rfPickLoop c m (rfEligible c.sectionLen v.sec) v.sec (v.rand.after (pickStart c 0))).1 ∧
    (rfPick c v).rand = v.rand.after (pickStart c m) := by
  subst hm
  have hstart (n : Nat) : pickStart c 0 + n * (1 + c.colorDraws) = pickStart c n := by simp [pickStart]
  simp only [rfPick, rfPickLoop_after, rfPickCount_eq, RandomPort.after_after, hstart, and_self]

/-- Settles O51: the pixels are `pickedPixels` of the eligible ones, from the source that the draw of `m` leaves. -/
theorem twinklePicksDistinctEligiblePixels : Obligations.TwinklePicksDistinctEligiblePixels := by
  unfold Obligations.TwinklePicksDistinctEligiblePixels
  intro c v hinv
  obtain ⟨htgt, hfs, -⟩ := hinv
  obtain ⟨m, hm⟩ : ∃ m, (rfPickCount c (rfEligible c.sectionLen v.sec).length v.rand).1 = m := ⟨_, rfl⟩
  obtain ⟨hsec, hrand⟩ := rfPick_eq c v hm
  have hle : m ≤ (rfEligible c.sectionLen v.sec).length := hm ▸ rfPickCount_le c _ v.rand
  have hnodup : (rfEligible c.sectionLen v.sec).Nodup := List.nodup_range.filter _
  have hlt (o : Nat) (ho : o ∈ rfEligible c.sectionLen v.sec) : o < c.sectionLen :=
    List.mem_range.mp (List.mem_filter.mp ho).1
  have hstart (n : Nat) : pickStart c 0 + n * (1 + c.colorDraws) = pickStart c n := by simp [pickStart]
  simp only [eligibleWithout_eq_filter]
  refine ⟨pickedPixels c m (rfEligible c.sectionLen v.sec) (v.rand.after (pickStart c 0)), pickedPixels_nodup c hle hnodup,
    ?_, fun n k hn => ⟨?_, ?_⟩, fun o ho => ?_, ?_, rfPick_fb c v, rfPick_frame c v⟩
  · rw [length_pickedPixels, ← hm, rfPickCount_eq]
    simp
  · have hget := pickedPixels_getElem? c hle hnodup hn
    rwa [RandomPort.raw_after, hstart] at hget
  · have hpicked := rfPickLoop_of_picked c hle hnodup (x := v.sec) (fun o ho => (hlt o ho).trans_eq htgt.symm)
      (fun o ho => (hlt o ho).trans_eq hfs.symm) hn
    rwa [drawnColor_after, ← Nat.add_assoc, hstart, ← hsec] at hpicked
  · rw [hsec]
    exact rfPickLoop_of_notPicked c ho v.sec
  · rw [length_pickedPixels, hrand]

/-! ### A whole frame -/

/-- What the update shows, with the decremented counter written out (43_random_kernels.md R224). -/
theorem rfShown_eq (cur tgt : Color) (fs : BitVec 5) :
    rfShown cur tgt fs = if fs = 0 then tgt else lerp cur tgt (20 - ((fs.toNat : Int) - 1)) 20 := by
  unfold rfShown
  split
  · rfl
  next hne =>
    have hpos : 1 ≤ fs.toNat := Nat.one_le_iff_ne_zero.mpr fun h0 => hne (BitVec.eq_of_toNat_eq h0)
    rw [rfCount_toNat, Nat.cast_sub hpos, Nat.cast_one]

/-- Settles O52: the update after the pick after the seed, pixel by pixel, and the registers they write. -/
theorem twinkleFadesTowardTheTargets : Obligations.TwinkleFadesTowardTheTargets := by
  unfold Obligations.TwinkleFadesTowardTheTargets
  intro s hfb _
  have hsec := s.runKernel_sec kernelTwinkle s.frameSec s.frameSec
  rw [if_pos rfl] at hsec
  refine ⟨s.runKernel kernelTwinkle s.frameSec, _, rfl, rfl, fun o ho => ?_, fun i hi => ?_, ?_, fun o => ?_, ?_⟩
  · have hread := read_rfUpdate (v := rfPick s.cfg (rfSeedIfBlack s.cfg s.frameSec (s.view s.frameSec)))
      (rfSeedIfBlack_wf hfb s.frameSec) s.frameSec ho
    rwa [rfShown_eq] at hread
  · exact read_kernelTwinkle_outside (v := s.view s.frameSec) hfb hi
  · rw [hsec]
    rfl
  · rw [hsec, kernelTwinkle, rfUpdate_rfFs, rfCount_toNat]
    rfl
  · rw [hsec]
    exact State.runKernel_eq (kernelTwinkle_sec ..) rfl

end Sys2Proof.Machine
end

section
/-! Every register within its width, wherever the invariant holds and after every reset (10_state.md R53). -/

namespace Sys2Proof.Machine

theorem SectionRegs.Inv.fits {c : Config} {x : SectionRegs} (h : x.Inv c) : x.Fits c := by
  obtain ⟨-, hpattern, hscc, hch, hra, hro, hrd, ⟨hcol, hphase, hbri, hactive, -, -⟩, ⟨htgt, hfs, -⟩, hrows, hrun, hpos⟩ := h
  have index {i : Nat} (hi : i < c.sectionLen) : i < 2 ^ c.indexWidth := lt_two_pow_bitsFor hi
  have hlen : c.sectionLen ≤ 2 ^ c.indexWidth := le_two_pow_bitsFor _
  have hwide : 2 ^ (c.indexWidth + 1) = 2 ^ c.indexWidth * 2 := pow_succ _ _
  have hone : 0 < 2 ^ c.indexWidth := Nat.two_pow_pos _
  have hcast : (2 ^ c.indexWidth : Int) = ((2 ^ c.indexWidth : Nat) : Int) := by push_cast; rfl
  refine ⟨hpattern, index hscc, index hch, lt_two_pow_bitsFor hra, index hro, hrd, hcol, hphase, hbri,
    hactive ▸ List.filter_sublist, htgt, hfs, ?_, ?_, ?_, ?_⟩
  all_goals omega

theorem State.Good.fits {s : State} (h : s.Good) : s.Fits := by
  obtain ⟨-, hfb, hsecs, hpixel, -⟩ := h
  exact ⟨hfb, fun k => (hsecs k).fits, hpixel ▸ Nat.two_pow_pos _⟩

theorem State.release_fits (c : Config) (s : State) : (s.release c).cfg = c ∧ (s.release c).Fits := by
  cases hc : c.legal with
  | true =>
    rw [State.release_legal hc]
    exact ⟨rfl, (State.afterReset_good hc s.cmds s.rand s.driverReady).fits⟩
  | false =>
    have hsec (k : Fin 4) : ((s.undefine c).sec k).Fits c := (s.undefine_sec c k).symm ▸ freeSection_fits c s.rejections k
    rw [State.release_illegal hc]
    exact ⟨rfl, s.undefine_wf c, hsec, s.undefine_pixel_lt c⟩

/-- Settles O60: legal values lie below `L` and `P`, which the widths count; what a rejection leaves is reduced to them. -/
theorem registersFitTheirWidths : Obligations.RegistersFitTheirWidths := by
  unfold Obligations.RegistersFitTheirWidths
  refine ⟨fun s h => h.fits, fun s c hrst => ⟨s.release c, step_reset hrst, s.release_fits c⟩, fun c hc => ?_⟩
  have hlen := Nat.sub_one_lt_of_lt (Config.sectionLen_pos hc)
  have hperiod := Nat.sub_one_lt_of_lt (Config.recolourPeriod_pos hc)
  exact ⟨fun w hw h1 => bitsFor_le hw h1, fun w hw h1 => bitsFor_le (hperiod.trans_le hw) h1, lt_two_pow_bitsFor hlen,
    le_two_pow_bitsFor _, one_le_bitsFor _, one_le_bitsFor _⟩

end Sys2Proof.Machine
end

section
/-! DropAndStack: one frame (44_drop_and_stack.md R253, R254) and a colour cycle (R255). -/

namespace Sys2Proof.Machine

/-! ### One frame -/

section
variable {c : Config} {k : Fin 4} {v : KernelView}

theorem kernelDropAndStack_fill (hpos : v.sec.dsPos = -1) : kernelDropAndStack c k v = dsStart c k v := if_pos hpos

theorem kernelDropAndStack_fall (hpos : v.sec.dsPos ≠ -1) :
    kernelDropAndStack c k v = { v with fb := dsPaint c k v, sec := dsMove c v.sec } := if_neg hpos

theorem kernelDropAndStack_rand : (kernelDropAndStack c k v).rand = v.rand := by
  unfold kernelDropAndStack
  split <;> rfl

end

section
variable {c : Config} {x : SectionRegs}

theorem dsMove_falling (h : x.dsPos ≠ (c.sectionLen : Int) - x.dsRun) : dsMove c x = { x with dsPos := x.dsPos - 1 } := if_neg h

theorem dsMove_nextPass (h : x.dsPos = (c.sectionLen : Int) - x.dsRun) (hrun : 1 < x.dsRun - 1) :
    dsMove c x = { x with dsPos := (c.sectionLen : Int) - 1, dsRun := x.dsRun - 1 } := by
  rw [dsMove, if_pos h, if_neg (not_le.mpr hrun)]

theorem dsMove_endCycle (h : x.dsPos = (c.sectionLen : Int) - x.dsRun) (hrun : x.dsRun - 1 ≤ 1) :
    dsMove c x = { x with dsPos := -1, dsRun := x.dsRun - 1, dsCi := x.dsCi + 1 } := by
  rw [dsMove, if_pos h, if_pos hrun]

theorem dsMove_dsRun_of_landed (h : x.dsPos = (c.sectionLen : Int) - x.dsRun) : (dsMove c x).dsRun = x.dsRun - 1 := by
  unfold dsMove
  rw [if_pos h]
  split <;> rfl

end

/-- Settles O54: the fill frame and the three ways a falling frame moves the drop. -/
theorem dropAndStackFillsFallsAndLands : Obligations.DropAndStackFillsFallsAndLands := by
  unfold Obligations.DropAndStackFillsFallsAndLands
  rintro s x len hfb rfl rfl - hstack
  have hsec := s.runKernel_sec kernelDropAndStack s.frameSec s.frameSec
  rw [if_pos rfl] at hsec
  refine ⟨s.runKernel kernelDropAndStack s.frameSec, _, rfl, rfl, fun hfill => ?_, fun hfall => ?_, ?_⟩
  · have heq := kernelDropAndStack_fill (c := s.cfg) (k := s.frameSec) (v := s.view s.frameSec) hfill
    rw [hsec, State.runKernel_fb, heq]
    exact ⟨read_fillSection hfb s.frameSec _, rfl, rfl, rfl⟩
  · have heq := kernelDropAndStack_fall (c := s.cfg) (k := s.frameSec) (v := s.view s.frameSec) hfall
    obtain ⟨-, -, hend | ⟨-, -, hhigh⟩⟩ := hstack
    · exact absurd hend hfall
    rw [hsec, State.runKernel_fb, heq]
    refine ⟨read_dsPaint (v := s.view s.frameSec) hfb s.frameSec hhigh, fun hair => ?_, fun hland =>
      ⟨dsMove_dsRun_of_landed hland, fun hmore => ?_, fun hlast => ?_⟩⟩
    · dsimp only
      rw [State.view_sec, dsMove_falling hair]
      exact ⟨rfl, rfl, rfl⟩
    · dsimp only at hmore ⊢
      rw [State.view_sec, dsMove_dsRun_of_landed hland] at hmore
      rw [State.view_sec, dsMove_nextPass hland hmore]
      exact ⟨rfl, rfl⟩
    · dsimp only at hlast ⊢
      rw [State.view_sec, dsMove_dsRun_of_landed hland] at hlast
      rw [State.view_sec, dsMove_endCycle hland hlast]
      exact ⟨rfl, rfl⟩
  · rw [hsec]
    exact State.runKernel_eq (kernelDropAndStack_sec ..) kernelDropAndStack_rand

/-! ### A colour cycle -/

/-- The state of a cycle with drop colour `ci` before the frame in which the drop of the pass with run `r` has fallen `j` places:
the landed drops lie below, the last place of the falling one above, the background between (44_drop_and_stack.md R255). -/
structure StackPass (c : Config) (k : Fin 4) (ci : BitVec 1) (r j : Nat) (v : KernelView) : Prop where
  canonical : Memory.wf c.pixels v.fb = true
  run : v.sec.dsRun = r
  colour : v.sec.dsCi = ci
  pos : v.sec.dsPos = (c.sectionLen : Int) - 1 - j
  falling : j < r
  run_le : r ≤ c.sectionLen
  shown : ∀ o < c.sectionLen, readSection c k v.fb o =
    if o < c.sectionLen - r ∨ (0 < j ∧ o = c.sectionLen - j) then c.dsPal ci else c.dsPal (ci + 1)

/-- The end of a cycle with drop colour `ci`, whose last pass had run `r`. -/
structure StackDone (c : Config) (k : Fin 4) (ci : BitVec 1) (r : Nat) (v : KernelView) : Prop where
  pos : v.sec.dsPos = -1
  colour : v.sec.dsCi = ci + 1
  shown : ∀ o < c.sectionLen, readSection c k v.fb o =
    if o ≤ c.sectionLen - r then c.dsPal ci else c.dsPal (ci + 1)

section
variable {c : Config} {k : Fin 4} {ci : BitVec 1} {r j : Nat} {v : KernelView}

theorem StackPass.pos_ne (h : StackPass c k ci r j v) : v.sec.dsPos ≠ -1 := by
  have hpos := h.pos
  have hfall := h.falling
  have hrun := h.run_le
  omega

/-- The drop is at the floor of its pass exactly in the last of the pass's `r` frames. -/
theorem StackPass.landed_iff (h : StackPass c k ci r j v) : v.sec.dsPos = (c.sectionLen : Int) - v.sec.dsRun ↔ j + 1 = r := by
  rw [h.pos, h.run]
  omega

theorem StackPass.canonical_frame (h : StackPass c k ci r j v) : Memory.wf c.pixels (kernelDropAndStack c k v).fb = true :=
  kernelOfTag_wf (t := 10) rfl k h.canonical

/-- One frame of a pass erases the drop above and paints it where it now is. -/
theorem StackPass.shown_frame (h : StackPass c k ci r j v) {o : Nat} (ho : o < c.sectionLen) :
    readSection c k (kernelDropAndStack c k v).fb o =
      if o < c.sectionLen - r ∨ o = c.sectionLen - (j + 1) then c.dsPal ci else c.dsPal (ci + 1) := by
  have hne := h.pos_ne
  obtain ⟨hfb, -, hcolour, hpos, hfall, hrun, hshown⟩ := h
  have hold := hshown o ho
  rw [readSection] at hold
  rw [kernelDropAndStack_fall hne, readSection, read_dsPaint hfb k (by omega), hpos, hcolour, hold]
  by_cases hdrop : o = c.sectionLen - (j + 1)
  · rw [if_pos (by omega), if_pos (.inr hdrop)]
  · rw [if_neg (by omega)]
    by_cases herase : o = c.sectionLen - j ∧ 0 < j
    · rw [if_pos (by omega), if_neg (by omega)]
    · rw [if_neg (by omega)]
      exact if_congr (by omega) rfl rfl

theorem StackPass.fall (h : StackPass c k ci r j v) (hj : j + 1 < r) :
    StackPass c k ci r (j + 1) (kernelDropAndStack c k v) := by
  have hair := h.landed_iff.not.mpr hj.ne
  have hsec : (kernelDropAndStack c k v).sec = { v.sec with dsPos := v.sec.dsPos - 1 } := by
    rw [kernelDropAndStack_fall h.pos_ne]
    exact dsMove_falling hair
  refine ⟨h.canonical_frame, ?_, ?_, ?_, hj, h.run_le, fun o ho => ?_⟩
  · rw [hsec]
    exact h.run
  · rw [hsec]
    exact h.colour
  · rw [hsec, h.pos]
    push_cast
    omega
  · rw [h.shown_frame ho]
    simp

theorem StackPass.nextPass (h : StackPass c k ci (r + 1) r v) (hr : 2 ≤ r) :
    StackPass c k ci r 0 (kernelDropAndStack c k v) := by
  have hland := h.landed_iff.mpr rfl
  have hsec : (kernelDropAndStack c k v).sec = { v.sec with dsPos := (c.sectionLen : Int) - 1, dsRun := v.sec.dsRun - 1 } := by
    rw [kernelDropAndStack_fall h.pos_ne]
    exact dsMove_nextPass hland (by rw [h.run]; exact hr)
  have hrun := h.run_le
  refine ⟨h.canonical_frame, ?_, ?_, ?_, by omega, by omega, fun o ho => ?_⟩
  · rw [hsec, h.run]
    rfl
  · rw [hsec]
    exact h.colour
  · rw [hsec]
    simp
  · rw [h.shown_frame ho]
    exact if_congr (by omega) rfl rfl

theorem StackPass.done (h : StackPass c k ci (r + 1) r v) (hr : r ≤ 1) :
    StackDone c k ci (r + 1) (kernelDropAndStack c k v) := by
  have hland := h.landed_iff.mpr rfl
  have hsec : (kernelDropAndStack c k v).sec =
      { v.sec with dsPos := -1, dsRun := v.sec.dsRun - 1, dsCi := v.sec.dsCi + 1 } := by
    rw [kernelDropAndStack_fall h.pos_ne]
    exact dsMove_endCycle hland (by rw [h.run]; exact hr)
  refine ⟨by rw [hsec], by rw [hsec, h.colour], fun o ho => ?_⟩
  rw [h.shown_frame ho]
  exact if_congr (by omega) rfl rfl

/-- The fill frame starts the first pass, with the longest run. -/
theorem StackPass.of_fill (hfb : Memory.wf c.pixels v.fb = true) (hpos : v.sec.dsPos = -1) (hlen : 0 < c.sectionLen) :
    StackPass c k v.sec.dsCi c.sectionLen 0 (kernelDropAndStack c k v) := by
  rw [kernelDropAndStack_fill hpos]
  refine ⟨fillSection_wf hfb k _, rfl, rfl, by simp [dsStart], hlen, le_rfl, fun o ho => ?_⟩
  exact (read_fillSection hfb k _ _).trans (by simp [ho])

/-- `StackDone` after `n` frames from `v`, and in no state before. -/
def StackEndsAfter (c : Config) (k : Fin 4) (ci : BitVec 1) (r n : Nat) (v : KernelView) : Prop :=
  StackDone c k ci r ((kernelDropAndStack c k)^[n] v) ∧ ∀ m < n, ((kernelDropAndStack c k)^[m] v).sec.dsPos ≠ -1

theorem StackEndsAfter.succ {n : Nat} (hpos : v.sec.dsPos ≠ -1) (h : StackEndsAfter c k ci r n (kernelDropAndStack c k v)) :
    StackEndsAfter c k ci r (n + 1) v := by
  refine ⟨h.1, fun m hm => ?_⟩
  cases m with
  | zero => exact hpos
  | succ m => exact h.2 m (Nat.lt_of_succ_lt_succ hm)

/-- The frames left in a cycle: those of this pass and of the shorter ones, down to run 2. -/
theorem StackPass.endsAfter {n : Nat} (h : StackPass c k ci r j v) (hr : 2 ≤ r) (hn : 2 * (n + 1 + j) = r * (r + 1)) :
    StackEndsAfter c k ci 2 n v := by
  induction n generalizing r j v with
  | zero =>
    have hfall := h.falling
    nlinarith
  | succ n ih =>
    refine StackEndsAfter.succ h.pos_ne ?_
    obtain hair | rfl : j + 1 < r ∨ r = j + 1 := by have := h.falling; omega
    · exact ih (h.fall hair) hr (by rw [← hn]; ring)
    · obtain hmore | rfl : 2 ≤ j ∨ j = 1 := by omega
      · exact ih (h.nextPass hmore) hmore (by linarith)
      · obtain rfl : n = 0 := by omega
        exact ⟨h.done le_rfl, fun m hm => absurd hm (Nat.not_lt_zero m)⟩

end

/-- After the fill frame of a cycle the passes go down to run 2; a section of one pixel has one pass, of run 1. -/
theorem stackCycle_endsAfter {c : Config} {v : KernelView} {n : Nat} (hfb : Memory.wf c.pixels v.fb = true)
    (hpos : v.sec.dsPos = -1)
    (hn : (2 ≤ c.sectionLen ∧ n = c.sectionLen * (c.sectionLen + 1) / 2) ∨ (c.sectionLen = 1 ∧ n = 2)) (k : Fin 4) :
    ∃ n', n = n' + 1 ∧ StackEndsAfter c k v.sec.dsCi (min 2 c.sectionLen) n' (kernelDropAndStack c k v) := by
  have hstart := StackPass.of_fill (k := k) hfb hpos (by omega)
  obtain ⟨hlen, hn⟩ | ⟨hlen, rfl⟩ := hn
  · have htwice : 2 * n = c.sectionLen * (c.sectionLen + 1) := by
      rw [hn]
      exact Nat.two_mul_div_two_of_even (Nat.even_mul_succ_self _)
    obtain ⟨n, rfl⟩ : ∃ n', n = n' + 1 := Nat.exists_eq_succ_of_ne_zero (by rintro rfl; nlinarith)
    rw [min_eq_left hlen]
    exact ⟨n, rfl, hstart.endsAfter hlen htwice⟩
  · rw [hlen] at hstart ⊢
    exact ⟨1, rfl, .succ hstart.pos_ne ⟨hstart.done (Nat.zero_le 1), fun m hm => absurd hm (Nat.not_lt_zero m)⟩⟩

/-- Settles O55: the cycle is over when the last pass is, and no frame before leaves `ds_pos = -1`. -/
theorem dropAndStackCycleLength : Obligations.DropAndStackCycleLength := by
  unfold Obligations.DropAndStackCycleLength
  intro c k v n hfb hpos hn
  obtain ⟨n, rfl, ⟨hdone, hcolour, hshown⟩, hbefore⟩ := stackCycle_endsAfter hfb hpos hn k
  refine ⟨hdone, hcolour, fun m hm hmn => ?_, fun o ho => ?_⟩
  · obtain ⟨m, rfl⟩ := Nat.exists_eq_add_of_le' hm
    exact hbefore m (Nat.lt_of_succ_lt_succ hmn)
  · rw [Function.iterate_succ_apply, hshown o ho]
    by_cases htop : 2 ≤ c.sectionLen ∧ o = c.sectionLen - 1
    · rw [if_neg (by omega), if_pos htop]
    · rw [if_pos (by omega), if_neg htop]

end Sys2Proof.Machine
end
